-- ==== Sys2Proof/Word.lean ====
section
/-! DEFINITION. The part's word types and the names of its lanes, queues and slots. -/

namespace Sys2Proof

/-- One byte of a frame. -/
abbrev Byte := BitVec 8

/-- A 16-bit field: sequence numbers, credit limits, the generation, handles, masks and values. -/
abbrev Half := BitVec 16

/-- A 32-bit field: the Timebase, source times, admission numbers. -/
abbrev Word := BitVec 32

/-- Lane 0 to lane 3. -/
abbrev LaneId := Fin 4

/-- Q0 to Q7. -/
abbrev QueueId := Fin 8

/-- Slot 0 to slot 63 of the outstanding list. -/
abbrev SlotId := Fin 64

end Sys2Proof
end

