-- ==== Sys2Proof/Config.lean ====
section
/-! DEFINITION. The capacities the spec fixes and the values State.reset takes.
The spec leaves no value of the part open (no result, flag or register is called undefined), so there is no free value. -/

namespace Sys2Proof.Config

/-- Descriptors in the Record Store (R1). -/
def descriptors : Nat := 1024

/-- Blocks in the Record Store's pool (R1). -/
def blocks : Nat := 2048

/-- The largest value of every counter: 32 bits, saturating (00_scope.md, "Saturating values"). -/
def counterMax : Nat := 4294967295

/-- The default store-low watermark (R17, R20, R148). -/
def watermark : Nat := 64

/-- The default renotice interval in milliseconds (R148, R150). -/
def renoticeInterval : Nat := 1000

/-- The default gap timeout of the control link in milliseconds (R153, R169). -/
def gapTimeout : Nat := 5

/-- The longest time between two characters of a lane frame in microseconds: 1 ms (R27). -/
def laneCharGap : Nat := 1000

/-- DESIGN CHOICE (log 8, unsafe): the control link bit rate in State.reset is that of BSEL1 and BSEL0 both low; the spec
takes it from two pins at the release of RESETN (R169, R179). -/
def resetBitRate : Nat := 115200

end Sys2Proof.Config
end

