-- ==== Sys2Proof/Syntax.lean ====
section
/-! DEFINITION. The commands of the part: one constructor per row of spec/opcode_table.json, with the row's operands.

The rows that are requests of the host carry no operand. Such a row is the execution of the request at the head of the
request queue (R161), and its arguments are the bytes of that request's body, which State holds since
CONTROL_FRAME_RECEIVED put them there (DESIGN CHOICE, safe, log 1). -/

namespace Sys2Proof

/-- The link errors of R153 that LINK_ERROR takes; the gap error is GAP_ERROR. -/
inductive LinkErrorKind where
  | length
  | framing
  | crc
  deriving DecidableEq, Repr

/-- The five fields of a RECORD header, as they stand in the frame (R185). -/
structure RecordHeader where
  channel : Half
  kind : Byte
  seq : Half
  sourceTime : Word
  payloadLength : Byte
  deriving DecidableEq, Repr

/-- The commands: the part's steps, each whole and indivisible (95_what_each_step_holds.md). -/
inductive Instr where
  /-- RESETN_ASSERT (R179): the pin goes low. -/
  | resetnAssert
  /-- RESETN_RELEASE (R179): the pin goes high, or power comes on; the straps stand at the levels given (true is high). -/
  | resetnRelease (bsel1 bsel0 : Bool)
  /-- CONTROL_FRAME_RECEIVED (R158): the last CRC byte of a good frame has been received on the control link. -/
  | controlFrameReceived (seq kind : Byte) (body : List Byte)
  /-- LINK_ERROR (R154): a control link frame suffers a length, framing or CRC error. -/
  | linkError (kind : LinkErrorKind)
  /-- GAP_ERROR (R153): the gap timeout passes inside a control link frame. -/
  | gapError
  /-- SYNC (R166): a good SYNC frame arrives. -/
  | sync (seq : Byte) (body : List Byte)
  /-- IDENT (R167), executed from the request queue. -/
  | ident
  /-- LINK_CONFIG (R157), executed from the request queue. -/
  | linkConfig
  /-- CLEAR_ERROR (R156), executed from the request queue. -/
  | clearError
  /-- UNKNOWN_REQUEST (R162): a request of unknown kind is executed. -/
  | unknownRequest
  /-- LANE_CONFIG (R25), executed from the request queue. -/
  | laneConfig
  /-- LANE_OPEN (R32), executed from the request queue. -/
  | laneOpen
  /-- LANE_CLOSE (R39), executed from the request queue. -/
  | laneClose
  /-- LANE_ABORT (R43), executed from the request queue. -/
  | laneAbort
  /-- RULE_SET (R82), executed from the request queue. -/
  | ruleSet
  /-- RULE_GET (R84), executed from the request queue. -/
  | ruleGet
  /-- DEFAULT_SET (R83), executed from the request queue. -/
  | defaultSet
  /-- RULES_COMMIT (R86), its execution begun from the request queue. -/
  | rulesCommit
  /-- RULES_REVERT (R85), executed from the request queue. -/
  | rulesRevert
  /-- QUEUE_CONFIG (R105), executed from the request queue. -/
  | queueConfig
  /-- QUEUE_GET (R107), executed from the request queue. -/
  | queueGet
  /-- QUEUE_PURGE (R108), executed from the request queue. -/
  | queuePurge
  /-- FETCH (R117), executed from the request queue. -/
  | fetch
  /-- RELEASE (R125), executed from the request queue. -/
  | release
  /-- RETURN (R126), executed from the request queue. -/
  | returnHandles
  /-- EXTEND (R127), executed from the request queue. -/
  | extend
  /-- NOTICE_ACK (R144), executed from the request queue. -/
  | noticeAck
  /-- NOTICE_CONFIG (R148), executed from the request queue. -/
  | noticeConfig
  /-- STATUS (R171), executed from the request queue. -/
  | status
  /-- COUNTERS (R173), executed from the request queue. -/
  | counters
  /-- RESET_PART (R176): the execution of RESET(PART). -/
  | resetPart
  /-- PART_RESET_EFFECT (R176): the last byte of the RESET(PART) response has been sent. -/
  | partResetEffect
  /-- RESET_STORE (R177): the execution of RESET(STORE). -/
  | resetStore
  /-- CONTROL_FRAME_SENT (R165): the control link transmitter finishes a frame. -/
  | controlFrameSent
  /-- NOTICE_BEGIN (R142): the idle transmitter begins the requested notice. -/
  | noticeBegin
  /-- RENOTICE_EXPIRY (R147). -/
  | renoticeExpiry
  /-- HOLD_EXPIRY (R139) of one queue. -/
  | holdExpiry (q : QueueId)
  /-- LANE_BAD_FRAME (R27): a frame of the lane fails a length, stop-bit or CRC check. -/
  | laneBadFrame (n : LaneId)
  /-- LANE_CHAR_GAP_EXPIRY (R27): more than 1 ms passes inside a frame of the lane. -/
  | laneCharGapExpiry (n : LaneId)
  /-- ECHO (R33): a good frame of kind ECHO. -/
  | echo (n : LaneId) (index : Byte) (pattern : List Byte) (next : Half)
  /-- PROBE_INTERVAL_EXPIRY (R34). -/
  | probeIntervalExpiry (n : LaneId)
  /-- PROBE_WINDOW_EXPIRY (R36). -/
  | probeWindowExpiry (n : LaneId)
  /-- LANE_FRAME_SENT (R30): the lane transmitter finishes a frame. -/
  | laneFrameSent (n : LaneId)
  /-- RECORD_HEADER (R49): the header check byte of a RECORD frame has been received. `length` is the frame's length field
  and `seqByte` its sequence byte. -/
  | recordHeader (n : LaneId) (length : Half) (seqByte : Byte) (h : RecordHeader) (check : Byte)
  /-- RECORD_END (R60): the last CRC byte of a RECORD frame has been received. `rest` holds the bytes the CRC covers that
  came since the header decision; for a frame too short to have had one (R49) it holds all the bytes the CRC covers. -/
  | recordEnd (n : LaneId) (rest : List Byte) (crc : Half)
  /-- KEEPALIVE (R63): a good frame of kind KEEPALIVE. -/
  | keepalive (n : LaneId) (next : Half)
  /-- SOURCE_CLOSE (R42): a good frame of kind CLOSE. -/
  | sourceClose (n : LaneId)
  /-- CLOSE_ACK (R41): a good frame of kind CLOSE_ACK. -/
  | closeAck (n : LaneId)
  /-- LANE_PROTOCOL_ERROR (R28): a good lane frame of the kind and body given. -/
  | laneProtocolError (n : LaneId) (kind : Byte) (body : List Byte)
  /-- SILENCE_EXPIRY (R37). -/
  | silenceExpiry (n : LaneId)
  /-- CLOSE_TIMER_EXPIRY (R41). -/
  | closeTimerExpiry (n : LaneId)
  /-- CREDIT_REFRESH_EXPIRY (R67). -/
  | creditRefreshExpiry (n : LaneId)
  /-- CREDIT_GRANT (R10): the allocator grants one credit. -/
  | creditGrant
  /-- WALK_END (R71): the walk in flight ends. -/
  | walkEnd
  /-- LEASE_EXPIRY (R129) of one slot. -/
  | leaseExpiry (slot : SlotId)
  deriving DecidableEq, Repr

end Sys2Proof
end

