-- ==== Sys2Proof/Decode.lean ====
section
/-! DEFINITION. The opcode table gives no row of this block any bits (every row's "fields" is empty), so no word spells a
command. -/

namespace Sys2Proof

/-- The command that a word spells by the table's bits: none, for the table gives bits to no row. -/
def decodeTableWord (_nbits _w : Nat) : Option Instr := none

end Sys2Proof
end

