-- ==== Sys2Proof/Machine/State.lean ====
section
/-! DEFINITION. The state of the part, block by block, as plain data, and its value right after reset.

Times are counted in microseconds on `State.clock`, which does not wrap; the Timebase is its value modulo 2^32 (log 4).
A timer or deadline is `none` when stopped or absent. -/

namespace Sys2Proof.Machine

/-! ## Records (01_the_record_store.md) -/

/-- A record: the fields of the descriptor that holds it (R3). A field that has no value yet is absent (R5).
The descriptor's number and its blocks' numbers are not observable (R1) and are not held (DESIGN CHOICE, safe, log 5). -/
structure Record where
  lane : LaneId
  channel : Half
  kind : Byte
  seq : Half
  sourceTime : Word
  payloadLength : Nat
  /-- the missing count, 1 to 65535; the GAP flag is its presence (R4) -/
  missing : Option Nat
  /-- while ASSEMBLING the bytes received so far, written as they arrive; from the good end verdict on the whole payload
  (R3, R5, R59) -/
  payload : List Byte
  arrival : Option Word
  generation : Option Half
  /-- the label, 1 to 15; the LABELLED flag is its presence (R4) -/
  label : Option Byte
  queue : Option QueueId
  admission : Option Word
  deliveryCount : Nat
  spilled : Bool
  deriving DecidableEq, Repr

/-- The Record Store's own state (R1, R11, R17). The reservation accounts are computed from the lanes (R7, log 20). -/
structure Store where
  /-- F -/
  freeDescriptors : Nat
  /-- B -/
  freeBlocks : Nat
  /-- the lane the credit allocator considers first -/
  pointer : LaneId
  /-- the store-low state: true is ARMED -/
  armed : Bool
  watermark : Nat
  deriving DecidableEq, Repr

/-! ## The lines and their receivers (R27, R153) -/

/-- A character on its way to the part: its byte, whether it has its stop bit, and how many microseconds after the character
before it on its line, or after now, it is received (log 28). -/
structure Arrival where
  wait : Nat
  byte : Byte
  stop : Bool
  deriving DecidableEq, Repr

/-- What is still to come on the part's inputs, in order of arrival. It is the outside world's, as the waiting commands are,
and no reset of the part touches it (log 28). -/
structure Lines where
  control : List Arrival
  lanes : Vector (List Arrival) 4
  deriving DecidableEq, Repr

/-- A character a receiver has taken: its byte, whether it has its stop bit, and the last moment at which the next character
is in time, by the gap timeout in force when this one arrived (R27, R153, R157). -/
structure LineChar where
  byte : Byte
  stop : Bool
  gapEnd : Nat
  deriving DecidableEq, Repr

/-- A receiver of the framing layer (R27, R153). -/
structure Reception where
  /-- the frame being gathered, its start-of-frame character first; empty while the receiver hunts -/
  frame : List LineChar
  /-- the characters behind the start-of-frame character of a failed frame, at which hunting has resumed; they are looked at
  before any further character of the line -/
  again : List LineChar
  deriving DecidableEq, Repr

/-! ## Lane Controllers (02_capture_lanes.md, 03_record_admission.md) -/

/-- The five lane states (R22). -/
inductive LaneState where
  | down
  | probing
  | active
  | closing
  | failed
  deriving DecidableEq, Repr

/-- The seven parameters of a lane (R24); times in milliseconds. -/
structure LaneConfig where
  creditCap : Nat
  creditStep : Nat
  silenceTimeout : Nat
  probeWindow : Nat
  closeTimeout : Nat
  errorBurst : Nat
  autoReprobe : Bool
  deriving DecidableEq, Repr

/-- The five timers of a lane (R23). -/
structure LaneTimers where
  probeInterval : Option Nat
  probeWindow : Option Nat
  silence : Option Nat
  close : Option Nat
  refresh : Option Nat
  deriving DecidableEq, Repr

/-- The frames the part sends on a lane (R185). -/
inductive LaneFrame where
  | probe (index : Fin 4)
  | credit (limit : Half)
  | close (limit : Half)
  | closeAck
  deriving DecidableEq, Repr

/-- The ten counters of a lane (R45, R68). -/
structure LaneCounters where
  framesBad : Nat
  protocolErrors : Nat
  probeRetries : Nat
  recordsAccepted : Nat
  duplicates : Nat
  overruns : Nat
  malformed : Nat
  headerCheckErrors : Nat
  crcErrors : Nat
  missingTotal : Nat
  deriving DecidableEq, Repr

/-- How far the lane receiver has come with a RECORD frame (R49). -/
inductive LaneReceiver where
  /-- no RECORD frame is past its header decision: the receiver hunts, or gathers a frame in `reception` -/
  | hunting
  /-- `covered`: the bytes the frame CRC covers so far; `remaining`: the body bytes still to come; `inSession`: the lane was
  ACTIVE or CLOSING at the header decision, so the frame belongs to record admission (R49). -/
  | record (covered : List Byte) (remaining : Nat) (inSession : Bool)
  deriving DecidableEq, Repr

/-- One Lane Controller (R23, R48). The reservation W is computed (R23). -/
structure Lane where
  state : LaneState
  awaited : Fin 4
  /-- expected sequence -/
  e : Half
  /-- credit limit L -/
  limit : Half
  lastSent : Half
  pendingMissing : Nat
  consecutiveBad : Nat
  assembly : Option Record
  timers : LaneTimers
  config : LaneConfig
  counters : LaneCounters
  /-- the frame the lane transmitter is sending -/
  sending : Option LaneFrame
  /-- the frames waiting for the lane transmitter, in the order they became due (R30) -/
  waiting : List LaneFrame
  receiver : LaneReceiver
  reception : Reception
  deriving DecidableEq, Repr

/-! ## Classifier (04_classification.md) -/

/-- One rule entry, as it is encoded (R72, R82, R189). -/
structure RuleEntry where
  enabled : Bool
  chain : Bool
  field : Byte
  offset : Byte
  operator : Byte
  mask : Half
  value : Half
  action : Byte
  queue : Byte
  label : Byte
  deriving DecidableEq, Repr

/-- One rule bank: 32 entries and a default action (R81). -/
structure RuleBank where
  rules : Vector RuleEntry 32
  defaultAction : Byte
  defaultQueue : Byte
  deriving DecidableEq, Repr

/-- The walk in flight: its record and the moment it began (R71). -/
structure Walk where
  record : Record
  begun : Nat
  deriving DecidableEq, Repr

/-- The six classifier counters; the 32 match counters stand beside them (R91). -/
structure ClassifierCounters where
  walks : Nat
  defaultDecisions : Nat
  handedOver : Nat
  noQueue : Nat
  discards : Nat
  abandoned : Nat
  deriving DecidableEq, Repr

/-- The Classifier (R69, R70, R81, R90, R91). IDLE is `walk = none`. -/
structure Classifier where
  /-- the intake list, oldest first -/
  intake : List Record
  walk : Option Walk
  pendingCommit : Bool
  staging : RuleBank
  active : RuleBank
  generation : Half
  matches_ : Vector Nat 32
  counters : ClassifierCounters
  deriving DecidableEq, Repr

/-! ## Queue Manager (05_delivery_queues.md) -/

/-- R95. -/
inductive OverflowPolicy where
  | refuseNew
  | dropOldest
  deriving DecidableEq, Repr

/-- R95. -/
inductive ExpiryAction where
  | requeue
  | drop
  deriving DecidableEq, Repr

/-- The ten parameters of a queue (R95); times in milliseconds. -/
structure QueueConfig where
  enabled : Bool
  depthLimit : Nat
  policy : OverflowPolicy
  priority : Nat
  leaseTime : Nat
  expiryAction : ExpiryAction
  redeliveryLimit : Nat
  spillQueue : Option QueueId
  noticeThreshold : Nat
  noticeHold : Nat
  deriving DecidableEq, Repr

/-- The fourteen counters of a queue (R111). -/
structure QueueCounters where
  admitted : Nat
  refusedFull : Nat
  refusedDisabled : Nat
  evicted : Nat
  delivered : Nat
  taken : Nat
  released : Nat
  returned : Nat
  expired : Nat
  requeued : Nat
  spilledOut : Nat
  spilledIn : Nat
  droppedExhausted : Nat
  purged : Nat
  deriving DecidableEq, Repr

/-- One delivery queue (R94). The queued count is the length of the list. -/
structure Queue where
  config : QueueConfig
  /-- head (oldest) first -/
  list : List Record
  charge : Nat
  admissionCounter : Word
  counters : QueueCounters
  deriving DecidableEq, Repr

/-! ## Delivery Unit (06_fetch_leases_and_release.md) -/

/-- What an OCCUPIED slot holds (R114). -/
structure Occupant where
  record : Record
  source : QueueId
  deadline : Option Nat
  deriving DecidableEq, Repr

/-- One slot of the outstanding list (R114); EMPTY is `occupant = none`. -/
structure Slot where
  issue : BitVec 10
  occupant : Option Occupant
  deriving DecidableEq, Repr

/-! ## Notice Unit (07_notices_and_alerts.md) -/

/-- The nine alert kinds (R136). -/
inductive AlertKind where
  | restarted
  | laneUp
  | laneLost
  | laneFailed
  | laneClosed
  | queueOverflow
  | leaseExpired
  | linkError
  | storeLow
  deriving DecidableEq, Repr

/-- One entry of the alert set (R136). -/
structure AlertEntry where
  kind : AlertKind
  count : Nat
  subjects : Byte
  deriving DecidableEq, Repr

/-- What the Notice Unit holds for one queue (R138), with the queue's due state as it was last evaluated (R139, log 18). -/
structure Level where
  /-- reported level P -/
  reported : Nat
  /-- unreported-since time -/
  since : Option Nat
  due : Bool
  deriving DecidableEq, Repr

/-- R140. -/
inductive NoticeState where
  | quiet
  | waitingLink
  | awaitingAck
  deriving DecidableEq, Repr

/-- The contents of a notice, with the moment it was taken (R142). -/
structure Snapshot where
  counts : Vector Nat 8
  due : Vector Bool 8
  outstanding : Nat
  freeDescriptors : Nat
  freeBlocks : Nat
  lanes : Vector LaneState 4
  errorFlag : Bool
  alerts : List AlertEntry
  taken : Nat
  deriving DecidableEq, Repr

/-- The Notice Unit (R136, R138, R140). The notice request stands in the outbound queue exactly in WAITING_LINK (R140). -/
structure Notice where
  alerts : List AlertEntry
  levels : Vector Level 8
  state : NoticeState
  tag : Byte
  snapshot : Option Snapshot
  dirty : Bool
  renotice : Option Nat
  enabled : Bool
  interval : Nat
  deriving DecidableEq, Repr

/-! ## Control Link Controller (08_the_control_link.md) -/

/-- R155. -/
inductive LinkState where
  | unsynced
  | opened
  | halted
  deriving DecidableEq, Repr

/-- R155. -/
inductive IntegrityMode where
  | strict
  | tolerant
  deriving DecidableEq, Repr

/-- A control link frame: its sequence byte, kind and body (R183). -/
structure Frame where
  seq : Byte
  kind : Byte
  body : List Byte
  deriving DecidableEq, Repr

/-- What the control link transmitter can be sending. -/
inductive OutFrame where
  /-- a response frame -/
  | response (f : Frame)
  /-- the response to RESET(PART), whose end is the PART reset (R176) -/
  | resetResponse (f : Frame)
  /-- a NOTICE frame (R191) -/
  | notice (f : Frame)
  deriving DecidableEq, Repr

/-- The twelve link counters (R168). -/
structure LinkCounters where
  goodFrames : Nat
  lengthErrors : Nat
  framingErrors : Nat
  gapErrors : Nat
  crcErrors : Nat
  requestsExecuted : Nat
  resent : Nat
  busyAnswers : Nat
  sequenceAnswers : Nat
  refusedAnswers : Nat
  answersDropped : Nat
  noticesSent : Nat
  deriving DecidableEq, Repr

/-- One entry of the reply cache (R163): a sequence number and the response frame sent for it. -/
structure CacheEntry where
  seq : Byte
  frame : Frame
  deriving DecidableEq, Repr

/-- The Control Link Controller (R155, R158, R161 to R164, R169). -/
structure Link where
  state : LinkState
  mode : IntegrityMode
  errorFlag : Bool
  /-- milliseconds -/
  gapTimeout : Nat
  /-- the expected sequence; none until the first SYNC (R159, R169) -/
  expected : Option Byte
  /-- the request queue, head first -/
  requests : List Frame
  /-- the request in execution: a RULES_COMMIT that waits for the walk in flight (R89, R161) -/
  executing : Option Frame
  /-- the SYNCs that wait for the execution to end, in order of arrival (R166) -/
  syncWaiting : List Byte
  /-- the reply cache, oldest first -/
  cache : List CacheEntry
  /-- the response frames of the outbound queue, oldest first -/
  outbound : List OutFrame
  /-- the frame the transmitter is sending -/
  sending : Option OutFrame
  /-- RESET(PART) has been executed and its response not yet sent completely (R169, R176) -/
  resetPending : Bool
  reception : Reception
  counters : LinkCounters
  /-- control link bit rate, bit/s -/
  bitRate : Nat
  deriving DecidableEq, Repr

/-! ## The part -/

/-- The whole part, and the commands that wait to be taken. -/
structure State where
  /-- the commands that wait, first in first out -/
  pending : List Instr
  /-- RESETN is high -/
  running : Bool
  /-- microseconds since the last reset, not wrapped -/
  clock : Nat
  lines : Lines
  lanes : Vector Lane 4
  store : Store
  classifier : Classifier
  queues : Vector Queue 8
  slots : Vector Slot 64
  notice : Notice
  link : Link
  deriving DecidableEq, Repr

/-- The part has no fault: no event stops it, and every refused request is answered (R180). Safe: nothing raises one. -/
inductive Fault where
  deriving DecidableEq, Repr

/-- Why a command has no meaning. -/
inductive Refusal where
  /-- Raised by exec's arm of a command that has no meaning in the model, under its mnemonic; no arm of exec raises it.
  Safe: the model stops there. -/
  | notModelled (mnemonic : String)
  deriving DecidableEq, Repr

/-! ## Reset values -/

/-- R24. -/
def LaneConfig.default : LaneConfig :=
  ⟨16, 4, 500, 1000, 200, 16, false⟩

/-- Nothing is to come on any line. -/
def Lines.silent : Lines := ⟨[], Vector.replicate 4 []⟩

/-- A receiver that hunts (R46, R169). -/
def Reception.hunting : Reception := ⟨[], []⟩

/-- Every timer stopped (R46). -/
def LaneTimers.stopped : LaneTimers := ⟨none, none, none, none, none⟩

/-- R46. -/
def LaneCounters.zero : LaneCounters := ⟨0, 0, 0, 0, 0, 0, 0, 0, 0, 0⟩

/-- R46. -/
def Lane.powerOn : Lane where
  state := .down
  awaited := 0
  e := 0
  limit := 65535
  lastSent := 65535
  pendingMissing := 0
  consecutiveBad := 0
  assembly := none
  timers := .stopped
  config := .default
  counters := .zero
  sending := none
  waiting := []
  receiver := .hunting
  reception := .hunting

/-- R20. -/
def Store.powerOn : Store where
  freeDescriptors := Config.descriptors
  freeBlocks := Config.blocks
  pointer := 0
  armed := true
  watermark := Config.watermark

/-- Eleven bytes of 0x00 (R92, R189). -/
def RuleEntry.zero : RuleEntry := ⟨false, false, 0, 0, 0, 0, 0, 0, 0, 0⟩

/-- Every rule disabled, default action DELIVER(0) (R92). -/
def RuleBank.powerOn : RuleBank := ⟨Vector.replicate 32 .zero, 1, 0⟩

/-- R92. -/
def ClassifierCounters.zero : ClassifierCounters := ⟨0, 0, 0, 0, 0, 0⟩

/-- R92. -/
def Classifier.powerOn : Classifier where
  intake := []
  walk := none
  pendingCommit := false
  staging := .powerOn
  active := .powerOn
  generation := 0
  matches_ := Vector.replicate 32 0
  counters := .zero

/-- The defaults of R95, with the enabled state given. -/
def QueueConfig.default (enabled : Bool) : QueueConfig where
  enabled := enabled
  depthLimit := 256
  policy := .refuseNew
  priority := 0
  leaseTime := 0
  expiryAction := .requeue
  redeliveryLimit := 3
  spillQueue := none
  noticeThreshold := 1
  noticeHold := 0

/-- R112. -/
def QueueCounters.zero : QueueCounters := ⟨0, 0, 0, 0, 0, 0, 0, 0, 0, 0, 0, 0, 0, 0⟩

/-- R112. -/
def Queue.powerOn (enabled : Bool) : Queue where
  config := .default enabled
  list := []
  charge := 0
  admissionCounter := 0
  counters := .zero

/-- R134. -/
def Slot.powerOn : Slot := ⟨0, none⟩

/-- R150. -/
def Level.zero : Level := ⟨0, none, false⟩

/-- R150. -/
def Notice.powerOn : Notice where
  alerts := [⟨.restarted, 1, 0⟩]
  levels := Vector.replicate 8 .zero
  state := .quiet
  tag := 0
  snapshot := none
  dirty := false
  renotice := none
  enabled := true
  interval := Config.renoticeInterval

/-- R169. -/
def LinkCounters.zero : LinkCounters := ⟨0, 0, 0, 0, 0, 0, 0, 0, 0, 0, 0, 0⟩

/-- R169, with the bit rate given. -/
def Link.powerOn (bitRate : Nat) : Link where
  state := .unsynced
  mode := .strict
  errorFlag := false
  gapTimeout := Config.gapTimeout
  expected := none
  requests := []
  executing := none
  syncWaiting := []
  cache := []
  outbound := []
  sending := none
  resetPending := false
  reception := .hunting
  counters := .zero
  bitRate := bitRate

/-- Every block at its power-on values (R20, R46, R92, R112, R134, R150, R169, R178). What comes from outside stays
as it is: the commands that wait and the characters still to come. -/
def State.powerOn (pending : List Instr) (lines : Lines) (running : Bool) (bitRate : Nat) : State where
  pending := pending
  running := running
  clock := 0
  lines := lines
  lanes := Vector.replicate 4 .powerOn
  store := .powerOn
  classifier := .powerOn
  queues := (Vector.replicate 8 (.powerOn false)).set 0 (.powerOn true)
  slots := Vector.replicate 64 .powerOn
  notice := .powerOn
  link := .powerOn bitRate

/-- The part right after the release of RESETN (R179), with both straps low (DESIGN CHOICE, unsafe, log 8). -/
def State.reset : State := .powerOn [] .silent true Config.resetBitRate

end Sys2Proof.Machine
end

