-- ==== Sys2Proof/Machine/Operands.lean ====
section
/-! DEFINITION. The operand forms: byte order, masks, handles, and the arguments in each request body (R187), each read to
`none` where the body has to be answered BAD_ARGUMENT (R182). The length of a body is checked before (R162). -/

namespace Sys2Proof.Machine

/-! ## Byte order: most significant byte first (00_scope.md, "Byte order") -/

/-- The two bytes of a 16-bit field. -/
def be16 (x : Half) : List Byte := [x.extractLsb' 8 8, x.extractLsb' 0 8]

/-- The four bytes of a 32-bit field. -/
def be32 (x : Word) : List Byte :=
  [x.extractLsb' 24 8, x.extractLsb' 16 8, x.extractLsb' 8 8, x.extractLsb' 0 8]

/-- A count in one byte. -/
def byteOf (n : Nat) : Byte := BitVec.ofNat 8 n

/-- A count in two bytes. -/
def be16Nat (n : Nat) : List Byte := be16 (BitVec.ofNat 16 n)

/-- A count in four bytes. -/
def be32Nat (n : Nat) : List Byte := be32 (BitVec.ofNat 32 n)

/-- A flag in one byte: 0 or 1. -/
def flagByte (b : Bool) : Byte := if b then 1 else 0

/-- The 16-bit field of two bytes. -/
def half (hi lo : Byte) : Half := hi ++ lo

/-- A 32-bit field from its four bytes. -/
def word (b3 b2 b1 b0 : Byte) : Word := half b3 b2 ++ half b1 b0

/-- A two-byte count. -/
def nat16 (hi lo : Byte) : Nat := (half hi lo).toNat

/-! ## Masks (00_scope.md, "Masks") -/

/-- The lanes, lowest first. -/
def allLanes : List LaneId := [0, 1, 2, 3]

/-- The queues, lowest first. -/
def allQueues : List QueueId := [0, 1, 2, 3, 4, 5, 6, 7]

/-- The slots, lowest first. -/
def allSlots : List SlotId := List.finRange 64

/-- The mask of one lane. -/
def laneBit (n : LaneId) : Byte := 1#8 <<< n.val

/-- The mask of one queue. -/
def queueBit (q : QueueId) : Byte := 1#8 <<< q.val

/-- The lanes a mask names, lowest first. -/
def maskLanes (mask : Byte) : List LaneId := allLanes.filter fun n => mask.getLsbD n.val

/-- A lane mask names at least one lane and has no bit beyond lane 3 (R25, R32, R39, R43). -/
def laneMaskOk (mask : Byte) : Bool := decide (mask ≠ 0) && decide (mask.toNat < 16)

/-- The lanes of a LANE_OPEN, LANE_CLOSE or LANE_ABORT body (R187). -/
def laneMaskArg : List Byte → Option (List LaneId)
  | [mask] => if laneMaskOk mask then some (maskLanes mask) else none
  | _ => none

/-! ## Handles (R115): issue count × 64 + slot number -/

/-- The handle of a slot under an issue count. -/
def handleOf (issue : BitVec 10) (slot : SlotId) : Half := issue ++ BitVec.ofNat 6 slot.val

/-- The slot number of a handle: the value mod 64. -/
def handleSlot (h : Half) : SlotId := (h.extractLsb' 0 6).toFin

/-- The issue count of a handle: ⌊value / 64⌋. -/
def handleIssue (h : Half) : BitVec 10 := h.extractLsb' 6 10

/-- The handles that stand in a list of bytes, two bytes each. -/
def readHandles : List Byte → List Half
  | hi :: lo :: rest => half hi lo :: readHandles rest
  | _ => []

/-- The handles of a RELEASE, RETURN or EXTEND body: a list count of 1 to 32 (R124). -/
def handlesArg : List Byte → Option (List Half)
  | count :: rest => if 1 ≤ count.toNat ∧ count.toNat ≤ 32 then some (readHandles rest) else none
  | [] => none

/-! ## Request bodies (R187) -/

/-- A queue number 0 to 7. -/
def queueNumber (b : Byte) : Option QueueId := if h : b.toNat < 8 then some ⟨b.toNat, h⟩ else none

/-- A one-byte queue argument: QUEUE_GET and QUEUE_PURGE. -/
def queueArg : List Byte → Option QueueId
  | [q] => queueNumber q
  | _ => none

/-- LINK_CONFIG(integrity mode, gap timeout) (R157). -/
def linkConfigArg : List Byte → Option (IntegrityMode × Nat)
  | [mode, gap] =>
    if gap = 0 then none
    else if mode = 0 then some (.strict, gap.toNat)
    else if mode = 1 then some (.tolerant, gap.toNat)
    else none
  | _ => none

/-- The seven values lie in their ranges, and the step does not exceed the cap (R24, R25). -/
def LaneConfig.inRange (c : LaneConfig) : Bool :=
  decide (1 ≤ c.creditCap ∧ c.creditCap ≤ 64) && decide (1 ≤ c.creditStep ∧ c.creditStep ≤ 16) &&
  decide (c.creditStep ≤ c.creditCap) && decide (10 ≤ c.silenceTimeout ∧ c.silenceTimeout ≤ 60000) &&
  decide (100 ≤ c.probeWindow ∧ c.probeWindow ≤ 10000) && decide (10 ≤ c.closeTimeout ∧ c.closeTimeout ≤ 10000) &&
  decide (1 ≤ c.errorBurst ∧ c.errorBurst ≤ 255)

/-- LANE_CONFIG(mask, seven values) (R25). -/
def laneConfigArg : List Byte → Option (List LaneId × LaneConfig)
  | [mask, cap, step, s1, s0, p1, p0, c1, c0, burst, reprobe] =>
    let c : LaneConfig :=
      ⟨cap.toNat, step.toNat, nat16 s1 s0, nat16 p1 p0, nat16 c1 c0, burst.toNat, decide (reprobe = 1)⟩
    if laneMaskOk mask && c.inRange && decide (reprobe.toNat ≤ 1) then some (maskLanes mask, c) else none
  | _ => none

/-- A rule entry from its eleven bytes; reserved bits of the first byte must be 0 (R82, R189). -/
def ruleEntryArg : List Byte → Option RuleEntry
  | [flags, field, offset, operator, m1, m0, v1, v0, action, queue, label] =>
    if flags.toNat < 4 then
      some ⟨flags.getLsbD 0, flags.getLsbD 1, field, offset, operator, half m1 m0, half v1 v0, action, queue, label⟩
    else none
  | _ => none

/-- RULE_SET(index, entry) (R82). -/
def ruleSetArg : List Byte → Option (Fin 32 × RuleEntry)
  | index :: entry =>
    if h : index.toNat < 32 then (ruleEntryArg entry).map fun e => (⟨index.toNat, h⟩, e) else none
  | [] => none

/-- RULE_GET(bank, index): true is ACTIVE; index 0 to 32 (R84). -/
def ruleGetArg : List Byte → Option (Bool × Nat)
  | [bank, index] =>
    if bank.toNat ≤ 1 ∧ index.toNat ≤ 32 then some (decide (bank = 1), index.toNat) else none
  | _ => none

/-- DEFAULT_SET(action, queue): both bytes are stored as received (R83, R189). -/
def defaultSetArg : List Byte → Option (Byte × Byte)
  | [action, queue] => some (action, queue)
  | _ => none

/-- A spill queue byte: 0 to 7, or 0xFF for NONE (R187). The outer `none` is BAD_ARGUMENT. -/
def spillArg (b : Byte) : Option (Option QueueId) :=
  if b = 0xFF then some none else (queueNumber b).map some

/-- The ten parameters lie in their ranges (R95). Lease time and notice hold time take every 16-bit value. -/
def QueueConfig.inRange (c : QueueConfig) : Bool :=
  decide (1 ≤ c.depthLimit ∧ c.depthLimit ≤ 1024) && decide (c.priority ≤ 3) && decide (c.leaseTime ≤ 65535) &&
  decide (c.redeliveryLimit ≤ 15) && decide (c.noticeThreshold ≤ 1024) && decide (c.noticeHold ≤ 65535)

/-- QUEUE_CONFIG(queue, ten parameters) (R105, R187). A spill queue equal to the queue itself is refused. -/
def queueConfigArg : List Byte → Option (QueueId × QueueConfig)
  | [queue, flags, d1, d0, priority, l1, l0, redelivery, spill, t1, t0, h1, h0] =>
    match queueNumber queue, spillArg spill with
    | some q, some sp =>
      let c : QueueConfig :=
        { enabled := flags.getLsbD 0
          depthLimit := nat16 d1 d0
          policy := if flags.getLsbD 1 then .dropOldest else .refuseNew
          priority := priority.toNat
          leaseTime := nat16 l1 l0
          expiryAction := if flags.getLsbD 2 then .drop else .requeue
          redeliveryLimit := redelivery.toNat
          spillQueue := sp
          noticeThreshold := nat16 t1 t0
          noticeHold := nat16 h1 h0 }
      if flags.toNat < 8 ∧ c.inRange = true ∧ sp ≠ some q then some (q, c) else none
    | _, _ => none
  | _ => none

/-- The two FETCH modes (R117). -/
inductive FetchMode where
  | claim
  | take
  deriving DecidableEq, Repr

/-- FETCH(queue, max count, mode): `none` for the queue is ANY (R117, R187). -/
def fetchArg : List Byte → Option (Option QueueId × Nat × FetchMode)
  | [queue, count, mode] =>
    match spillArg queue, decide (1 ≤ count.toNat ∧ count.toNat ≤ 16), mode.toNat with
    | some q, true, 0 => some (q, count.toNat, .claim)
    | some q, true, 1 => some (q, count.toNat, .take)
    | _, _, _ => none
  | _ => none

/-- NOTICE_ACK(tag) (R144): every byte is a tag. -/
def noticeAckArg : List Byte → Option Byte
  | [tag] => some tag
  | _ => none

/-- NOTICE_CONFIG(enable, renotice interval, store-low watermark) (R148). -/
def noticeConfigArg : List Byte → Option (Bool × Nat × Nat)
  | [enable, i1, i0, w1, w0] =>
    let interval := nat16 i1 i0
    let watermark := nat16 w1 w0
    if enable.toNat ≤ 1 ∧ (interval = 0 ∨ (10 ≤ interval ∧ interval ≤ 60000)) ∧ watermark ≤ 1023 then
      some (decide (enable = 1), interval, watermark)
    else none
  | _ => none

/-- The groups of COUNTERS (R173). -/
inductive CounterGroup where
  | lane (n : LaneId)
  | queue (q : QueueId)
  | rules
  | link
  deriving DecidableEq, Repr

/-- The group a group code and a number name (R173). -/
def counterGroup (group number : Byte) : Option CounterGroup :=
  match group.toNat with
  | 0 => if h : number.toNat < 4 then some (.lane ⟨number.toNat, h⟩) else none
  | 1 => (queueNumber number).map .queue
  | 2 => if number = 0 then some .rules else none
  | 3 => if number = 0 then some .link else none
  | _ => none

/-- COUNTERS(group, clear) (R173). -/
def countersArg : List Byte → Option (CounterGroup × Bool)
  | [group, number, clear] =>
    if clear.toNat ≤ 1 then (counterGroup group number).map fun g => (g, decide (clear = 1)) else none
  | _ => none

/-! ## Kinds, results and outcomes (section 10.6) -/

namespace Kind

def sync : Byte := 0x01
def ident : Byte := 0x02
def linkConfig : Byte := 0x03
def clearError : Byte := 0x04
def laneConfig : Byte := 0x10
def laneOpen : Byte := 0x11
def laneClose : Byte := 0x12
def laneAbort : Byte := 0x13
def ruleSet : Byte := 0x20
def ruleGet : Byte := 0x21
def defaultSet : Byte := 0x22
def rulesCommit : Byte := 0x23
def rulesRevert : Byte := 0x24
def queueConfig : Byte := 0x30
def queueGet : Byte := 0x31
def queuePurge : Byte := 0x32
def fetch : Byte := 0x40
def release : Byte := 0x41
def returnHandles : Byte := 0x42
def extend : Byte := 0x43
def noticeAck : Byte := 0x50
def noticeConfig : Byte := 0x51
def status : Byte := 0x58
def counters : Byte := 0x59
def reset : Byte := 0x5A
def notice : Byte := 0xE0

end Kind

/-- The body length R187 gives for a request kind; `none` for a kind that is no request (R162). For RELEASE, RETURN and
EXTEND it is the length that the body's own list count implies, and a body of 0 bytes has none, so it never fits (R186). -/
def requestLength (kind : Byte) (body : List Byte) : Option Nat :=
  match kind.toNat with
  | 0x01 | 0x02 | 0x04 | 0x23 | 0x24 | 0x58 => some 0
  | 0x11 | 0x12 | 0x13 | 0x31 | 0x32 | 0x50 | 0x5A => some 1
  | 0x03 | 0x21 | 0x22 => some 2
  | 0x40 | 0x59 => some 3
  | 0x51 => some 5
  | 0x10 => some 11
  | 0x20 => some 12
  | 0x30 => some 13
  | 0x41 | 0x42 | 0x43 =>
    match body with
    | [] => some 1
    | count :: _ => some (1 + 2 * count.toNat)
  | _ => none

/-- A kind that is one of the requests of R161. -/
def knownKind (kind : Byte) : Bool := (requestLength kind []).isSome

/-- The length check of R162. -/
def bodyLengthOk (r : Frame) : Bool := decide (requestLength r.kind r.body = some r.body.length)

/-- The kind of the response to a request kind: the top bit set, and 0xFF where that would be the kind of NOTICE (R162). -/
def responseKind (kind : Byte) : Byte :=
  if kind ||| 0x80 = Kind.notice then 0xFF else kind ||| 0x80

namespace Result

def ok : Byte := 0x00
def empty : Byte := 0x01
def busy : Byte := 0x10
def badSequence : Byte := 0x11
def notSynced : Byte := 0x12
def linkHalted : Byte := 0x13
def unknownRequest : Byte := 0x14
def badLength : Byte := 0x15
def badArgument : Byte := 0x20
def badState : Byte := 0x21
def queueDisabled : Byte := 0x22
def outstandingFull : Byte := 0x23
def invalidRule : Byte := 0x24
def staleTag : Byte := 0x25

end Result

namespace ItemOutcome

def ok : Byte := 0x00
def already : Byte := 0x01
def released : Byte := 0x02
def returned : Byte := 0x03
def extended : Byte := 0x04
def unleased : Byte := 0x05
def stale : Byte := 0x06

end ItemOutcome

/-- Alert kind codes (section 10.6). -/
def AlertKind.code : AlertKind → Byte
  | .restarted => 0x01
  | .laneUp => 0x02
  | .laneLost => 0x03
  | .laneFailed => 0x04
  | .laneClosed => 0x05
  | .queueOverflow => 0x06
  | .leaseExpired => 0x07
  | .linkError => 0x08
  | .storeLow => 0x09

/-- Link state codes (section 10.6). -/
def LinkState.code : LinkState → Byte
  | .unsynced => 0
  | .opened => 1
  | .halted => 2

/-- Integrity mode codes (section 10.6). -/
def IntegrityMode.code : IntegrityMode → Byte
  | .strict => 0
  | .tolerant => 1

/-- Lane state codes (section 10.6). -/
def LaneState.code : LaneState → Byte
  | .down => 0
  | .probing => 1
  | .active => 2
  | .closing => 3
  | .failed => 4

/-- Notice state codes (section 10.6). -/
def NoticeState.code : NoticeState → Byte
  | .quiet => 0
  | .waitingLink => 1
  | .awaitingAck => 2

/-- Group codes of COUNTERS (R187). -/
def CounterGroup.code : CounterGroup → Byte
  | .lane _ => 0
  | .queue _ => 1
  | .rules => 2
  | .link => 3

/-- The lane or queue number of a COUNTERS group (R187). -/
def CounterGroup.number : CounterGroup → Byte
  | .lane n => byteOf n.val
  | .queue q => byteOf q.val
  | .rules => 0
  | .link => 0

end Sys2Proof.Machine
end

