-- ==== Sys2Proof/Machine/Flags.lean ====
section
/-! DEFINITION. Saturating counts, the alert set, the reported levels and the due test, the dirty flag and the notice request:
what the Notice Unit does inside the step of any event that reaches it (07_notices_and_alerts.md).

The functions of this file act on the Notice Unit alone. `synced` says that the control link is not UNSYNCED. -/

namespace Sys2Proof.Machine

/-! ## Saturating counts (00_scope.md, "Saturating values") -/

/-- Add and stop at the largest value. -/
def satAdd (max n d : Nat) : Nat := min (n + d) max

/-- A 32-bit counter counts one event. -/
def bump (n : Nat) : Nat := satAdd Config.counterMax n 1

/-- A 32-bit counter rises by d. -/
def bumpBy (d n : Nat) : Nat := satAdd Config.counterMax n d

/-- A missing count rises by d (R52). -/
def addMissing (n d : Nat) : Nat := satAdd 65535 n d

/-! ## Vectors -/

/-- A function applied to every entry. -/
def mapVec {α β : Type} {k : Nat} (f : α → β) (v : Vector α k) : Vector β k :=
  ⟨(v.toList.map f).toArray, by simp⟩

/-- One value for each queue. -/
def eachQueue {α : Type} (f : QueueId → α) : Vector α 8 := #v[f 0, f 1, f 2, f 3, f 4, f 5, f 6, f 7]

/-! ## The alert set (R136, R137) -/

/-- A raise into the alert set: the entry of the kind counts it and gathers its subject, or a new entry is appended. -/
def raiseAlert (kind : AlertKind) (subject : Byte) : List AlertEntry → List AlertEntry
  | [] => [⟨kind, 1, subject⟩]
  | a :: rest =>
    if a.kind = kind then ⟨kind, satAdd 255 a.count 1, a.subjects ||| subject⟩ :: rest
    else a :: raiseAlert kind subject rest

namespace Notice

/-- Some queue is due (R139). -/
def anyDue (n : Notice) : Bool := n.levels.toList.any (·.due)

/-- A notice is wanted (R140). -/
def wanted (n : Notice) : Bool := !n.alerts.isEmpty || n.anyDue

/-- The three conditions of R141 in QUIET: the notice request is placed and the state becomes WAITING_LINK. -/
def request (synced : Bool) (n : Notice) : Notice :=
  if n.state = .quiet ∧ n.wanted = true ∧ n.enabled = true ∧ synced = true then { n with state := .waitingLink } else n

/-- The dirty flag is set (R143). -/
def markDirty (n : Notice) : Notice := { n with dirty := true }

/-- A raise (R137): a raise that changes the set sets the dirty flag in AWAITING_ACK, and in QUIET R141 is tested. -/
def raise (kind : AlertKind) (subject : Byte) (synced : Bool) (n : Notice) : Notice :=
  let alerts := raiseAlert kind subject n.alerts
  let changed := decide (alerts ≠ n.alerts)
  let n := { n with alerts := alerts }
  match n.state with
  | .quiet => n.request synced
  | .waitingLink => n
  | .awaitingAck => if changed then n.markDirty else n

/-- The last snapshot's due mask names the queue. -/
def snapshotNames (q : QueueId) (n : Notice) : Bool :=
  match n.snapshot with
  | some sn => sn.due[q]
  | none => false

/-- A queue has become due: in QUIET R141 is tested; in AWAITING_ACK a queue not in the snapshot's due mask sets the dirty
flag (R143); in WAITING_LINK the notice will carry it (R152). -/
def becameDue (q : QueueId) (synced : Bool) (n : Notice) : Notice :=
  match n.state with
  | .quiet => n.request synced
  | .waitingLink => n
  | .awaitingAck => if n.snapshotNames q then n else n.markDirty

/-- What the Notice Unit holds for a queue. -/
def setLevel (q : QueueId) (l : Level) (n : Notice) : Notice := { n with levels := n.levels.set q l }

end Notice

/-- The due test of R139 for a queued count, at a moment. -/
def isDue (c : QueueConfig) (count : Nat) (l : Level) (now : Nat) : Bool :=
  decide (l.reported < count) &&
  ((decide (c.noticeThreshold ≠ 0) && decide (c.noticeThreshold ≤ count - l.reported)) ||
   (decide (c.noticeHold ≠ 0) &&
    match l.since with
    | some t => decide (t + 1000 * c.noticeHold ≤ now)
    | none => false))

/-- The moment of a queue's hold expiry, when one is set (R139). -/
def holdDeadline (c : QueueConfig) (l : Level) : Option Nat :=
  if c.noticeHold = 0 then none else l.since.map (· + 1000 * c.noticeHold)

/-- How P and the unreported-since time follow a change of the queued count (R138). -/
def followLevel (l : Level) (old new now : Nat) : Level :=
  if new ≤ l.reported then { l with reported := new, since := none }
  else if old ≤ l.reported then { l with since := some now }
  else l

namespace Notice

/-- The due state of q evaluated afresh (R139). -/
def evalDue (q : QueueId) (c : QueueConfig) (count now : Nat) (synced : Bool) (n : Notice) : Notice :=
  let l := n.levels[q]
  let d := isDue c count l now
  let n := n.setLevel q { l with due := d }
  if d && !l.due then n.becameDue q synced else n

/-- The Notice Unit follows a change of q's queued count, in the step of the change (R138, R139). -/
def follow (q : QueueId) (c : QueueConfig) (old new now : Nat) (synced : Bool) (n : Notice) : Notice :=
  (n.setLevel q (followLevel n.levels[q] old new now)).evalDue q c new now synced

/-- The renotice timer is started with the interval in force, when that is not 0 and notices are enabled (R142, R147). -/
def renoticeDeadline (now : Nat) (n : Notice) : Option Nat :=
  if n.interval ≠ 0 ∧ n.enabled = true then some (now + 1000 * n.interval) else none

end Notice

/-- The alert set less what a snapshot reported (R145). -/
def subtractAlerts (reported : List AlertEntry) (alerts : List AlertEntry) : List AlertEntry :=
  alerts.filterMap fun a =>
    match reported.find? (fun r => decide (r.kind = a.kind)) with
    | none => some a
    | some r => if a.count - r.count = 0 then none else some { a with count := a.count - r.count }

end Sys2Proof.Machine
end

