-- ==== Sys2Proof/Machine/Framing.lean ====
section
/-! DEFINITION. The framing layer (R183), the two CRCs (R184), the lane frames and the RECORD header (R185), what a receiver
does with each character (R27, R153), and how a stream of control link bytes becomes commands (R153). -/

namespace Sys2Proof.Machine

/-! ## The CRCs (R184) -/

/-- One bit of the CRC-16: shift left, and XOR 0x1021 in when the bit shifted out was 1. -/
def crc16Bit (c : Half) : Half := if c.getLsbD 15 then (c <<< 1) ^^^ 0x1021 else c <<< 1

/-- One byte of the CRC-16: XOR it into the top, then eight bits. -/
def crc16Byte (c : Half) (b : Byte) : Half :=
  let c := c ^^^ (b ++ 0#8)
  crc16Bit (crc16Bit (crc16Bit (crc16Bit (crc16Bit (crc16Bit (crc16Bit (crc16Bit c)))))))

/-- CRC-16, initial value 0xFFFF. -/
def crc16 (bytes : List Byte) : Half := bytes.foldl crc16Byte 0xFFFF

/-- One bit of the CRC-8. -/
def crc8Bit (c : Byte) : Byte := if c.getLsbD 7 then (c <<< 1) ^^^ 0x07 else c <<< 1

/-- One byte of the CRC-8. -/
def crc8Byte (c : Byte) (b : Byte) : Byte :=
  let c := c ^^^ b
  crc8Bit (crc8Bit (crc8Bit (crc8Bit (crc8Bit (crc8Bit (crc8Bit (crc8Bit c)))))))

/-- CRC-8, initial value 0x00. -/
def crc8 (bytes : List Byte) : Byte := bytes.foldl crc8Byte 0

/-! ## Frames (R183) -/

/-- The bytes a frame's CRC-16 covers: length, sequence, kind and body. -/
def coveredBytes (seq kind : Byte) (body : List Byte) : List Byte :=
  be16Nat (body.length + 2) ++ [seq, kind] ++ body

/-- A whole frame with the start-of-frame byte given. -/
def frameBytes (sof seq kind : Byte) (body : List Byte) : List Byte :=
  sof :: coveredBytes seq kind body ++ be16 (crc16 (coveredBytes seq kind body))

/-- The start-of-frame byte of the control link. -/
def controlSof : Byte := 0xB7

/-- The start-of-frame byte of a capture lane. -/
def laneSof : Byte := 0x9E

/-- The bytes of a control link frame on the line. -/
def Frame.bytes (f : Frame) : List Byte := frameBytes controlSof f.seq f.kind f.body

/-- The frame an outbound entry is. -/
def OutFrame.frame : OutFrame → Frame
  | .response f => f
  | .resetResponse f => f
  | .notice f => f

/-! ## Lane frames (R185) -/

namespace LaneKind

def probe : Byte := 0x01
def credit : Byte := 0x02
def close : Byte := 0x03
def closeAck : Byte := 0x04
def echo : Byte := 0x11
def record : Byte := 0x12
def keepalive : Byte := 0x13

end LaneKind

/-- The four probe patterns (R31). -/
def probePattern : Fin 4 → List Byte
  | 0 => [0xA6, 0x59, 0xA6, 0x59, 0x3C, 0xC3, 0x3C, 0xC3]
  | 1 => [0x0F, 0xF0, 0x96, 0x69, 0x0F, 0xF0, 0x96, 0x69]
  | 2 => [0xE1, 0x1E, 0xD2, 0x2D, 0xB4, 0x4B, 0x78, 0x87]
  | 3 => [0x00, 0xFF, 0x55, 0xAA, 0x33, 0xCC, 0x99, 0x66]

/-- The kind of a lane frame the part sends. -/
def LaneFrame.kind : LaneFrame → Byte
  | .probe _ => LaneKind.probe
  | .credit _ => LaneKind.credit
  | .close _ => LaneKind.close
  | .closeAck => LaneKind.closeAck

/-- The body of a lane frame the part sends. -/
def LaneFrame.body : LaneFrame → List Byte
  | .probe k => byteOf k.val :: probePattern k
  | .credit limit => be16 limit
  | .close limit => be16 limit
  | .closeAck => []

/-- A lane frame's bytes on the line; the part sends 0x00 in the sequence byte (R183). -/
def LaneFrame.bytes (f : LaneFrame) : List Byte := frameBytes laneSof 0 f.kind f.body

/-- The ten bytes of a RECORD header (R185). -/
def headerBytes (h : RecordHeader) : List Byte :=
  be16 h.channel ++ [h.kind] ++ be16 h.seq ++ be32 h.sourceTime ++ [h.payloadLength]

/-- The bytes the CRC-16 of a RECORD frame covers up to its header decision. -/
def headerCovered (length : Half) (seqByte : Byte) (h : RecordHeader) (check : Byte) : List Byte :=
  be16 length ++ [seqByte, LaneKind.record] ++ headerBytes h ++ [check]

/-! ## A receiver, character by character (R27, R153) -/

namespace Reception

/-- A character at the receiver: hunting, it begins a frame when it is the start-of-frame value with its stop bit and is
discarded otherwise; behind a start-of-frame character it joins the frame. -/
def gather (sof : Byte) (c : LineChar) (r : Reception) : Reception :=
  match r.frame with
  | [] => if c.stop = true ∧ c.byte = sof then { r with frame := [c] } else r
  | start :: rest => { r with frame := start :: rest ++ [c] }

/-- The bytes of the frame being gathered, behind its start-of-frame byte. -/
def bytes (r : Reception) : List Byte := (r.frame.drop 1).map LineChar.byte

/-- A good frame has ended: the receiver hunts behind it. -/
def ended (r : Reception) : Reception := { r with frame := [] }

/-- A frame has failed: hunting resumes at the character after its start-of-frame character (R27, R153). DESIGN CHOICE, unsafe
(log 31): the rules do not say when a frame found among these characters is taken; it is taken when they are looked at again. -/
def rehunt (r : Reception) : Reception := ⟨[], r.frame.tail ++ r.again⟩

/-- The frame being gathered is the one whose bytes are given. Where its characters did not come over the line, a command
having brought it, they are taken to have come now (log 29). -/
def holding (bytes : List Byte) (gapEnd : Nat) (r : Reception) : Reception :=
  if r.frame.map LineChar.byte = bytes then r else { r with frame := bytes.map fun b => ⟨b, true, gapEnd⟩ }

/-- The gap after the last character of the frame being gathered is too long. -/
def gapPassed (now : Nat) (r : Reception) : Bool :=
  r.again.isEmpty &&
  match r.frame.getLast? with
  | some c => decide (c.gapEnd < now)
  | none => false

/-- The next character for the receiver, with what is left of the line: one it looks at again, or else one that has just been
received on the line. `gapEnd` is the last moment for the character after one received now. -/
def next (gapEnd : Nat) (line : List Arrival) (r : Reception) : Option (LineChar × Reception × List Arrival) :=
  match r.again, line with
  | c :: rest, _ => some (c, { r with again := rest }, line)
  | [], a :: rest => if a.wait = 0 then some (⟨a.byte, a.stop, gapEnd⟩, r, rest) else none
  | [], [] => none

end Reception

/-! ## The control link receiver (R153) -/

/-- What the receiver makes of the bytes after a start-of-frame byte. -/
inductive Received where
  /-- the frame is not complete yet -/
  | partway
  /-- the length field gives a value outside 2 to 1026 -/
  | lengthError
  /-- the CRC-16 does not match -/
  | crcError
  /-- a good frame, and the bytes after it -/
  | good (seq kind : Byte) (body rest : List Byte)
  deriving DecidableEq, Repr

/-- The frame that follows a start-of-frame byte. -/
def receiveFrame : List Byte → Received
  | l1 :: l0 :: more =>
    let length := nat16 l1 l0
    if length < 2 ∨ 1026 < length then .lengthError
    else if more.length < length + 2 then .partway
    else
      let text := more.take length
      let tail := more.drop length
      if tail.take 2 = be16 (crc16 (l1 :: l0 :: text)) then
        match text with
        | seq :: kind :: body => .good seq kind body (tail.drop 2)
        | _ => .lengthError
      else .crcError
  | _ => .partway

/-- The command a good control link frame is (R158, R166). -/
def goodControlFrame (seq kind : Byte) (body : List Byte) : Instr :=
  if kind = Kind.sync then .sync seq body else .controlFrameReceived seq kind body

/-- What the newest character of a frame on the control link gives (R153). DESIGN CHOICE, unsafe (log 30): R153 gives no order
for a character that is without its stop bit and is also a last length byte out of range, or a last CRC byte that does not
match; it is always the framing error. -/
def controlVerdict : List LineChar → Option Instr
  | [] => none
  | _ :: chars =>
    if chars.any (fun c => !c.stop) then some (.linkError .framing)
    else match receiveFrame (chars.map LineChar.byte) with
      | .partway => none
      | .lengthError => some (.linkError .length)
      | .crcError => some (.linkError .crc)
      | .good seq kind body _ => some (goodControlFrame seq kind body)

/-! ## The lane receiver (R27, R49, R183 to R185) -/

/-- The command a good lane frame other than a RECORD frame is (R28, R185). -/
def goodLaneFrame (n : LaneId) (kind : Byte) (body : List Byte) : Instr :=
  if kind = LaneKind.echo then
    match body with
    | [index, p0, p1, p2, p3, p4, p5, p6, p7, n1, n0] => .echo n index [p0, p1, p2, p3, p4, p5, p6, p7] (half n1 n0)
    | _ => .laneProtocolError n kind body
  else if kind = LaneKind.keepalive then
    match body with
    | [n1, n0] => .keepalive n (half n1 n0)
    | _ => .laneProtocolError n kind body
  else if kind = LaneKind.close ∧ body = [] then .sourceClose n
  else if kind = LaneKind.closeAck ∧ body = [] then .closeAck n
  else .laneProtocolError n kind body

/-- The header decision falls due when the header check byte of a RECORD frame has been received (R49, R185). -/
def recordHeaderCommand (n : LaneId) : List Byte → Option Instr
  | [l1, l0, seqByte, kind, h1, h0, k, s1, s0, t3, t2, t1, t0, len, check] =>
    if kind = LaneKind.record then
      some (.recordHeader n (half l1 l0) seqByte ⟨half h1 h0, k, half s1 s0, word t3 t2 t1 t0, len⟩ check)
    else none
  | _ => none

/-- The bytes of a lane frame behind its start-of-frame byte, and what the newest of them gives (R27, R49). `decided` is the
number of bytes up to the header decision of a RECORD frame, `none` before one. -/
def laneVerdict (n : LaneId) (decided : Option Nat) : List Byte → Option Instr
  | l1 :: l0 :: more =>
    let length := nat16 l1 l0
    if length < 2 ∨ 260 < length then some (.laneBadFrame n)
    else if more.length < length + 2 then
      if decided = none ∧ 13 ≤ length then recordHeaderCommand n (l1 :: l0 :: more) else none
    else
      let covered := l1 :: l0 :: more.take length
      match more.take length, more.drop length with
      | _ :: kind :: body, c1 :: c0 :: _ =>
        if kind = LaneKind.record then some (.recordEnd n (covered.drop (decided.getD 0)) (half c1 c0))
        else if crc16 covered = half c1 c0 then some (goodLaneFrame n kind body)
        else some (.laneBadFrame n)
      | _, _ => none
  | _ => none

/-- The number of bytes up to the header decision, `none` before one. -/
def LaneReceiver.decided : LaneReceiver → Option Nat
  | .hunting => none
  | .record covered _ _ => some covered.length

/-- What the newest character of a frame on a lane gives (R27, R49). DESIGN CHOICE, unsafe (log 30): a header check byte without
its stop bit makes the frame bad, and no header decision is taken. -/
def laneVerdictOn (n : LaneId) (receiver : LaneReceiver) : List LineChar → Option Instr
  | [] => none
  | _ :: chars =>
    if chars.any (fun c => !c.stop) then some (.laneBadFrame n)
    else laneVerdict n receiver.decided (chars.map LineChar.byte)

/-! ## The control link receiver on a stream of bytes (R153)

The stream is whole: every character has its stop bit and follows the one before within the gap timeout. -/

/-- The commands a stream of control link bytes gives: bytes before a start-of-frame byte are discarded, a good frame is
CONTROL_FRAME_RECEIVED, and after a link error hunting resumes at the byte after that frame's start-of-frame byte (R153).
The first argument bounds the number of bytes looked at as start-of-frame bytes. -/
def controlCommandsIn : Nat → List Byte → List Instr
  | 0, _ => []
  | _ + 1, [] => []
  | k + 1, b :: rest =>
    if b = controlSof then
      match receiveFrame rest with
      | .partway => []
      | .lengthError => .linkError .length :: controlCommandsIn k rest
      | .crcError => .linkError .crc :: controlCommandsIn k rest
      | .good seq kind body after => .controlFrameReceived seq kind body :: controlCommandsIn k after
    else controlCommandsIn k rest

/-- The commands a whole stream of control link bytes gives. -/
def controlCommands (bytes : List Byte) : List Instr := controlCommandsIn bytes.length bytes

end Sys2Proof.Machine
end

