-- ==== Sys2Proof/Machine/Ops.lean ====
section
/-! DEFINITION. The shared operations over the state: the accessors of lanes, queues and slots, claims on the Record Store,
raises, changes of a queue's list, the lane transmitter and the lane timers, and the placing of response frames. -/

namespace Sys2Proof.Machine

/-- What every meaning answers. -/
abbrev Result := Host.Outcome State Fault Refusal

namespace State

/-! ## Accessors -/

/-- The Timebase: 32 bits, wrapping (R178). -/
def timebase (s : State) : Word := BitVec.ofNat 32 s.clock

/-- One Lane Controller. -/
def lane (s : State) (n : LaneId) : Lane := s.lanes[n]

/-- Writes one Lane Controller. -/
def setLane (s : State) (n : LaneId) (l : Lane) : State := { s with lanes := s.lanes.set n l }

/-- Changes one Lane Controller. -/
def mapLane (n : LaneId) (f : Lane → Lane) (s : State) : State := s.setLane n (f (s.lane n))

/-- One delivery queue. -/
def queue (s : State) (q : QueueId) : Queue := s.queues[q]

/-- Writes one delivery queue. -/
def setQueue (s : State) (q : QueueId) (x : Queue) : State := { s with queues := s.queues.set q x }

/-- One slot of the outstanding list. -/
def slot (s : State) (i : SlotId) : Slot := s.slots[i]

/-- Writes one slot. -/
def setSlot (s : State) (i : SlotId) (x : Slot) : State := { s with slots := s.slots.set i x }

/-- The control link is not UNSYNCED. -/
def synced (s : State) : Bool := decide (s.link.state ≠ .unsynced)

/-- The outstanding count (R114). -/
def outstanding (s : State) : Nat := (s.slots.toList.filter fun x => x.occupant.isSome).length

end State

/-- The queued count (R94). -/
def Queue.queued (x : Queue) : Nat := x.list.length

/-- The reservation W of a lane (R23, R48), and the Record Store's account for it (R7). -/
def Lane.reservation (l : Lane) : Nat := (l.limit - l.e + 1).toNat

/-- R, the sum of the four accounts (R7). -/
def State.reserved (s : State) : Nat :=
  (s.lane 0).reservation + (s.lane 1).reservation + (s.lane 2).reservation + (s.lane 3).reservation

/-- The lane is in a session: ACTIVE or CLOSING. -/
def Lane.inSession (l : Lane) : Bool := decide (l.state = .active) || decide (l.state = .closing)

/-- The blocks that hold a payload of the length given (R6). -/
def blocksFor (payloadLength : Nat) : Nat := (payloadLength + 63) / 64

/-- The blocks a record holds (R6). -/
def Record.blocks (r : Record) : Nat := blocksFor r.payloadLength

/-- The contents of a record's block number k, as far as they are reported (R6): payload byte i stands in block ⌊i / 64⌋ at
offset i mod 64. -/
def Record.block (r : Record) (k : Nat) : List Byte := (r.payload.drop (64 * k)).take 64

namespace State

/-! ## Raises (R137) -/

/-- A raise reaches the Notice Unit, in the step of its event. -/
def raise (kind : AlertKind) (subject : Byte) (s : State) : State :=
  { s with notice := s.notice.raise kind subject s.synced }

/-! ## Claims on the Record Store (R13, R15, R17) -/

end State

/-- The rearm level of the store-low state (R17). -/
def rearmLevel (watermark : Nat) : Nat := min (watermark + 32) 1024

/-- A free: F and B rise, and a DISARMED state rearms when F reaches the rearm level (R15, R17). -/
def Store.free (r : Record) (st : Store) : Store :=
  let f := st.freeDescriptors + 1
  { st with
    freeDescriptors := f
    freeBlocks := st.freeBlocks + r.blocks
    armed := st.armed || decide (rearmLevel st.watermark ≤ f) }

/-- An allocation lowers F and B (R13). -/
def Store.take (blocks : Nat) (st : Store) : Store :=
  { st with freeDescriptors := st.freeDescriptors - 1, freeBlocks := st.freeBlocks - blocks }

/-- STORE_LOW has to be raised: ARMED, the watermark not 0, and F below it (R17, R18). -/
def Store.low (st : Store) : Bool :=
  st.armed && decide (st.watermark ≠ 0) && decide (st.freeDescriptors < st.watermark)

namespace State

/-- A free claim (R15). -/
def freeRecord (r : Record) (s : State) : State := { s with store := s.store.free r }

/-- The free claim on the record of an assembly in progress, if there is one. -/
def freeAssembly (r : Option Record) (s : State) : State :=
  match r with
  | some r => s.freeRecord r
  | none => s

/-- STORE_LOW is raised and the state becomes DISARMED, when it has to be (R17, R18). -/
def storeLowTest (s : State) : State :=
  if s.store.low then ({ s with store := { s.store with armed := false } } : State).raise .storeLow 0 else s

/-- An allocation claim for a record (R13), with the test it brings (R17). -/
def allocate (r : Record) (s : State) : State :=
  ({ s with store := s.store.take r.blocks } : State).storeLowTest

/-! ## A queue's list, charge and counters (R96) -/

/-- The Notice Unit evaluates q's due state afresh (R139). -/
def evalDue (q : QueueId) (s : State) : State :=
  { s with notice := s.notice.evalDue q (s.queue q).config (s.queue q).queued s.clock s.synced }

/-- A change of a queue's list, followed by the Notice Unit in the same step (R138). -/
def setList (q : QueueId) (list : List Record) (s : State) : State :=
  let x := s.queue q
  let s := s.setQueue q { x with list := list }
  { s with notice := s.notice.follow q x.config x.queued list.length s.clock s.synced }

/-- A change of a queue's charge. -/
def setCharge (q : QueueId) (charge : Nat) (s : State) : State := s.setQueue q { s.queue q with charge := charge }

/-- The charge rises by 1. -/
def chargeUp (q : QueueId) (s : State) : State := s.setCharge q ((s.queue q).charge + 1)

/-- The charge falls by 1. -/
def chargeDown (q : QueueId) (s : State) : State := s.setCharge q ((s.queue q).charge - 1)

/-- A change of a queue's counters. -/
def countQueue (q : QueueId) (f : QueueCounters → QueueCounters) (s : State) : State :=
  s.setQueue q { s.queue q with counters := f (s.queue q).counters }

/-! ## The control link's counters -/

/-- A change of the link counters. -/
def countLink (f : LinkCounters → LinkCounters) (s : State) : State :=
  { s with link := { s.link with counters := f s.link.counters } }

/-- A good frame has ended on the control link: the receiver hunts behind it (R153), and it is counted (R168). -/
def frameHeard (s : State) : State :=
  { s with link := { s.link with
      reception := s.link.reception.ended
      counters := { s.link.counters with goodFrames := bump s.link.counters.goodFrames } } }

end State

/-! ## The lane transmitter (R30, R64) -/

/-- A waiting PROBE. -/
def LaneFrame.isProbe : LaneFrame → Bool
  | .probe _ => true
  | .credit _ | .close _ | .closeAck => false

/-- A waiting CREDIT. -/
def LaneFrame.isCredit : LaneFrame → Bool
  | .credit _ => true
  | .probe _ | .close _ | .closeAck => false

namespace Lane

/-- A frame becomes due: it begins at once when the transmitter is idle, or else waits (R30). -/
def makeDue (f : LaneFrame) (l : Lane) : Lane :=
  match l.sending with
  | none => { l with sending := some f }
  | some _ => { l with waiting := l.waiting ++ [f] }

/-- PROBE(k) becomes due; it replaces an earlier PROBE that still waits (R30). -/
def dueProbe (k : Fin 4) (l : Lane) : Lane :=
  if l.waiting.any LaneFrame.isProbe then
    { l with waiting := l.waiting.map fun f => if f.isProbe then .probe k else f }
  else l.makeDue (.probe k)

/-- CREDIT(L) becomes due: the last sent limit becomes L and the refresh timer restarts with 50 ms; a CREDIT that already
waits takes the new limit and keeps its place (R64, R67). -/
def dueCredit (now : Nat) (l : Lane) : Lane :=
  let l := { l with lastSent := l.limit, timers := { l.timers with refresh := some (now + 50000) } }
  if l.waiting.any LaneFrame.isCredit then
    { l with waiting := l.waiting.map fun f => if f.isCredit then .credit l.limit else f }
  else l.makeDue (.credit l.limit)

/-- Waiting CREDIT frames are dropped when the lane leaves ACTIVE, a waiting PROBE when it leaves PROBING (R30). -/
def dropWaiting (l : Lane) : Lane :=
  { l with waiting := l.waiting.filter fun f => !f.isCredit && !f.isProbe }

/-! ## Credit triggers -/

/-- The step trigger's condition (R65). -/
def stepReached (l : Lane) : Bool := decide (l.config.creditStep ≤ (l.limit - l.lastSent).toNat)

/-- The exhaustion trigger's condition (R66). -/
def exhausted (l : Lane) : Bool :=
  decide ((l.e - l.lastSent - 1).toNat < 32768) &&
  decide (1 ≤ (l.limit - l.lastSent).toNat ∧ (l.limit - l.lastSent).toNat ≤ 64)

/-- The test after a change of e: the exhaustion trigger, in ACTIVE (R66). -/
def testCreditAfterE (now : Nat) (l : Lane) : Lane :=
  if l.state = .active ∧ l.exhausted = true then l.dueCredit now else l

/-- The test after a credit grant: the step and the exhaustion trigger, in ACTIVE (R65, R66). -/
def testCreditAfterGrant (now : Nat) (l : Lane) : Lane :=
  if l.state = .active ∧ (l.stepReached || l.exhausted) = true then l.dueCredit now else l

/-! ## Session state -/

/-- The silence timer restarts on a good frame, in ACTIVE and CLOSING (R37). -/
def restartSilence (now : Nat) (l : Lane) : Lane :=
  if l.inSession then
    { l with timers := { l.timers with silence := some (now + 1000 * l.config.silenceTimeout) } }
  else l

/-- A good frame has ended: the consecutive bad count becomes 0, the silence timer restarts (R29, R37) and the receiver hunts
behind it (R27). -/
def goodFrame (now : Nat) (l : Lane) : Lane :=
  ({ l with consecutiveBad := 0, reception := l.reception.ended } : Lane).restartSilence now

/-- A change of the lane counters. -/
def count (f : LaneCounters → LaneCounters) (l : Lane) : Lane := { l with counters := f l.counters }

/-- The end of a session or of a probe exchange into DOWN: L = e − 1, every timer stopped, the pending missing count 0, the
assembly context empty, waiting CREDIT and PROBE frames dropped (R30, R38, R39, R41, R42, R43). -/
def toDown (l : Lane) : Lane :=
  ({ l with
     state := .down
     limit := l.e - 1
     pendingMissing := 0
     assembly := none
     timers := .stopped } : Lane).dropWaiting

/-- Entry to PROBING (R32). -/
def enterProbing (now : Nat) (l : Lane) : Lane :=
  ({ l with
     state := .probing
     awaited := 0
     consecutiveBad := 0
     pendingMissing := 0
     timers := { LaneTimers.stopped with probeWindow := some (now + 1000 * l.config.probeWindow) } } : Lane).dueProbe 0

/-- A restart of the probe exchange from pattern 0 (R34). -/
def restartProbe (l : Lane) : Lane :=
  ({ l with
     awaited := 0
     timers := { l.timers with probeInterval := none }
     counters := { l.counters with probeRetries := bump l.counters.probeRetries } } : Lane).dueProbe 0

end Lane

/-! ## Placing response frames (R161, R163 to R165) -/

namespace State

/-- The idle transmitter begins the oldest waiting response frame (R165). -/
def pump (s : State) : State :=
  match s.link.sending, s.link.outbound with
  | none, f :: rest => { s with link := { s.link with sending := some f, outbound := rest } }
  | _, _ => s

/-- A response frame is placed at the tail of the outbound queue. -/
def place (f : OutFrame) (s : State) : State :=
  ({ s with link := { s.link with outbound := s.link.outbound ++ [f] } } : State).pump

end State

/-- The reply cache takes one more entry, and the oldest falls out when 4 are held (R163). -/
def pushCache (e : CacheEntry) (cache : List CacheEntry) : List CacheEntry :=
  let cache := cache ++ [e]
  cache.drop (cache.length - 4)

/-- The response frame to a request, with the body given (R162, R183). -/
def responseTo (r : Frame) (body : List Byte) : Frame := ⟨r.seq, responseKind r.kind, body⟩

namespace State

/-- An execution ends with a response: it enters the reply cache and the outbound queue in one step (R161, R163, R168). -/
def finishWith (wrap : Frame → OutFrame) (r : Frame) (body : List Byte) (s : State) : State :=
  let f := responseTo r body
  ({ s with link :=
       { s.link with
         cache := pushCache ⟨r.seq, f⟩ s.link.cache
         counters := { s.link.counters with requestsExecuted := bump s.link.counters.requestsExecuted } } } : State).place
    (wrap f)

/-- An execution ends with an ordinary response. -/
def finish (r : Frame) (body : List Byte) (s : State) : State := s.finishWith .response r body

/-- There is room in the outbound queue for an answer made at a frame's arrival (R164). -/
def answerRoom (s : State) : Bool :=
  decide (s.link.outbound.length < if s.link.executing.isSome then 7 else 8)

/-- An answer made at a frame's arrival: placed and counted, or dropped for want of room (R164, R168). -/
def answer (f : Frame) (count : LinkCounters → LinkCounters) (s : State) : State :=
  if s.answerRoom then (s.countLink count).place (.response f)
  else s.countLink fun c => { c with answersDropped := bump c.answersDropped }

/-- The request whose execution begins next: the head of the request queue, when no other is in execution, the outbound
queue holds fewer than 8 response frames and no SYNC waits (R161), and no RESET(PART) has been executed (R169). -/
def startable (s : State) : Option Frame :=
  if s.running = true ∧ s.link.executing = none ∧ s.link.outbound.length < 8 ∧ s.link.syncWaiting = [] ∧
      s.link.resetPending = false then s.link.requests.head?
  else none

/-- The request leaves the queue (R161). -/
def popRequest (s : State) : State := { s with link := { s.link with requests := s.link.requests.tail } }

/-- An event of the part: it is taken while RESETN is high; while it is held low the part takes no event (R179). -/
def event (f : State → State) (s : State) : Result := .next (if s.running then f s else s)

/-- The execution of the request at the head of the queue, when it is one the row is about: its length is checked, and it is
handed to its block (R161, R162). Where no such request can begin execution the event does not occur (log 2). -/
def withRequest (row : Frame → Bool) (act : Frame → State → State) (s : State) : State :=
  match s.startable with
  | some r =>
    if row r then
      if bodyLengthOk r then act r s.popRequest else s.popRequest.finish r [Result.badLength]
    else s
  | none => s

/-- The execution of a request that ends within its step: its block changes the state and makes the response body. -/
def request (kind : Byte) (act : List Byte → State → State × List Byte) (s : State) : Result :=
  .next (s.withRequest (fun r => decide (r.kind = kind)) fun r s =>
    let out := act r.body s
    out.1.finish r out.2)

end State

end Sys2Proof.Machine
end

