-- ==== Sys2Proof/Machine/LaneSession.lean ====
section
/-! DEFINITION. Lane sessions: the probe exchange, silence and loss, closing and aborting, the lane configuration and the lane
transmitter (02_capture_lanes.md). -/

namespace Sys2Proof.Machine

namespace State

/-- A session ends, or a probe exchange is given up, and the lane enters DOWN: an assembly in progress is freed (R15), L
becomes e − 1 and every timer stops (R38, R39, R41, R42, R43). -/
def endSession (n : LaneId) (s : State) : State :=
  (s.freeAssembly (s.lane n).assembly).mapLane n Lane.toDown

/-- A CLOSING lane goes DOWN with LANE_CLOSED (R41). -/
def closingEnd (n : LaneId) (s : State) : State := (s.endSession n).raise .laneClosed (laneBit n)

/-- The window of a CLOSING lane is used up: W = 0 and no assembly in progress (R41). -/
def checkWindow (n : LaneId) (s : State) : State :=
  let l := s.lane n
  if l.state = .closing ∧ l.reservation = 0 ∧ l.assembly = none then s.closingEnd n else s

/-- The lane is lost (R38): DOWN, or PROBING again with auto-reprobe ON. -/
def loseLane (n : LaneId) (s : State) : State :=
  let reprobe := (s.lane n).config.autoReprobe
  let s := (s.endSession n).raise .laneLost (laneBit n)
  if reprobe then s.mapLane n (Lane.enterProbing s.clock) else s

/-- A bad frame (R27, R29): it is counted, hunting resumes behind its start-of-frame byte, and in ACTIVE or CLOSING the consecutive bad count is
compared with the error burst threshold (R38). -/
def badFrame (n : LaneId) (s : State) : State :=
  let s := s.mapLane n fun l =>
    { l with
      consecutiveBad := satAdd 255 l.consecutiveBad 1
      counters := { l.counters with framesBad := bump l.counters.framesBad }
      receiver := .hunting
      reception := l.reception.rehunt }
  let l := s.lane n
  if l.inSession = true ∧ l.config.errorBurst ≤ l.consecutiveBad then s.loseLane n else s

/-- A bad end verdict on an accepted record (R61): the record is freed, its number stays consumed and is pending as missing,
and the frame is bad. In CLOSING with W = 0 and the threshold not reached, the window is used up (R41). -/
def recordBad (n : LaneId) (r : Record) (s : State) : State :=
  let s := (s.freeRecord r).mapLane n fun l =>
    { l with
      assembly := none
      pendingMissing := addMissing l.pendingMissing 1
      counters :=
        { l.counters with crcErrors := bump l.counters.crcErrors, missingTotal := bump l.counters.missingTotal } }
  (s.badFrame n).checkWindow n

/-- A frame of the lane fails its framing or CRC checks: of an accepted record it is the bad end verdict (R61), otherwise a
bad frame alone (R27, R49, R62). -/
def laneFrameFails (n : LaneId) (s : State) : State :=
  match (s.lane n).receiver, (s.lane n).assembly with
  | .record _ _ _, some r => s.recordBad n r
  | _, _ => s.badFrame n

/-- A protocol error (R28): a good frame, discarded and counted. -/
def protocolError (n : LaneId) (s : State) : State :=
  s.mapLane n fun l =>
    (l.goodFrame s.clock).count fun c => { c with protocolErrors := bump c.protocolErrors }

/-- The ECHO to index 3 has matched: the lane becomes ACTIVE (R35). -/
def activate (n : LaneId) (next : Half) (s : State) : State :=
  (s.mapLane n fun l =>
    ({ l with
       state := .active
       e := next
       limit := next - 1
       lastSent := next - 1
       pendingMissing := 0
       consecutiveBad := 0
       timers := { LaneTimers.stopped with
         silence := some (s.clock + 1000 * l.config.silenceTimeout)
         refresh := some (s.clock + 50000) } } : Lane).dropWaiting).raise .laneUp (laneBit n)

/-- An ECHO in PROBING (R33, R34): it matches the awaited index, while the probe interval timer runs, or it is wrong. -/
def probeEcho (n : LaneId) (index : Byte) (pattern : List Byte) (next : Half) (s : State) : State :=
  let s := s.mapLane n (Lane.goodFrame s.clock)
  let l := s.lane n
  if l.timers.probeInterval.isSome = true ∧ index.toNat = l.awaited.val ∧ pattern = probePattern l.awaited then
    if l.awaited = 3 then s.activate n next
    else s.mapLane n fun l =>
      ({ l with awaited := l.awaited + 1, timers := { l.timers with probeInterval := none } } : Lane).dueProbe (l.awaited + 1)
  else s.mapLane n Lane.restartProbe

/-- A CLOSE from the source in ACTIVE or CLOSING (R42). -/
def closeFromSource (n : LaneId) (s : State) : State :=
  let s := (s.mapLane n fun l => (l.goodFrame s.clock).makeDue .closeAck)
  s.closingEnd n

/-- A KEEPALIVE in ACTIVE or CLOSING (R63). -/
def takeKeepalive (n : LaneId) (next : Half) (s : State) : State :=
  let s := s.mapLane n (Lane.goodFrame s.clock)
  let l := s.lane n
  let d := (next - l.e).toNat
  if 1 ≤ d ∧ d ≤ l.reservation then
    (s.mapLane n fun l =>
      ({ l with
         e := next
         pendingMissing := addMissing l.pendingMissing d
         counters := { l.counters with missingTotal := bumpBy d l.counters.missingTotal } } : Lane).testCreditAfterE
        s.clock).checkWindow n
  else if d = 0 ∨ 32768 ≤ d then s
  else s.mapLane n (Lane.count fun c => { c with overruns := bump c.overruns })

/-- A good frame from the lane source, by its kind, its body and the lane state at its arrival (R28). A frame cannot arrive
while a RECORD frame is being received, and a RECORD frame in a session is RECORD_HEADER and RECORD_END (log 2). -/
def laneGoodFrame (n : LaneId) (kind : Byte) (body : List Byte) (s : State) : State :=
  let l := s.lane n
  if l.receiver ≠ .hunting then s
  else if kind = LaneKind.echo then
    match body with
    | [index, p0, p1, p2, p3, p4, p5, p6, p7, n1, n0] =>
      if l.state = .probing then s.probeEcho n index [p0, p1, p2, p3, p4, p5, p6, p7] (half n1 n0)
      else s.protocolError n
    | _ => s.protocolError n
  else if kind = LaneKind.keepalive then
    match body with
    | [n1, n0] => if l.inSession then s.takeKeepalive n (half n1 n0) else s.protocolError n
    | _ => s.protocolError n
  else if kind = LaneKind.close then
    if body = [] ∧ l.inSession = true then s.closeFromSource n else s.protocolError n
  else if kind = LaneKind.closeAck then
    if body ≠ [] then s.protocolError n
    else match l.state with
      | .down => s.mapLane n (Lane.goodFrame s.clock)
      | .closing => (s.mapLane n (Lane.goodFrame s.clock)).closingEnd n
      | .probing | .active | .failed => s.protocolError n
  else if kind = LaneKind.record then
    if l.inSession then s else s.protocolError n
  else s.protocolError n

end State

/-! ## Lane events -/

/-- ECHO (R33). -/
def execEcho (n : LaneId) (index : Byte) (pattern : List Byte) (next : Half) (s : State) : Result :=
  s.event (State.laneGoodFrame n LaneKind.echo (index :: pattern ++ be16 next))

/-- KEEPALIVE (R63). -/
def execKeepalive (n : LaneId) (next : Half) (s : State) : Result :=
  s.event (State.laneGoodFrame n LaneKind.keepalive (be16 next))

/-- SOURCE_CLOSE (R42). -/
def execSourceClose (n : LaneId) (s : State) : Result := s.event (State.laneGoodFrame n LaneKind.close [])

/-- CLOSE_ACK (R41). -/
def execCloseAck (n : LaneId) (s : State) : Result := s.event (State.laneGoodFrame n LaneKind.closeAck [])

/-- LANE_PROTOCOL_ERROR (R28): a good frame of the kind and body given; where R28 makes it no protocol error, it is acted on
as its kind. -/
def execLaneProtocolError (n : LaneId) (kind : Byte) (body : List Byte) (s : State) : Result :=
  s.event (State.laneGoodFrame n kind body)

/-- LANE_BAD_FRAME (R27). -/
def execLaneBadFrame (n : LaneId) (s : State) : Result := s.event (State.laneFrameFails n)

/-- LANE_CHAR_GAP_EXPIRY (R27): more than 1 ms has passed since the last character of the frame being gathered. -/
def execLaneCharGapExpiry (n : LaneId) (s : State) : Result :=
  s.event fun s => if (s.lane n).reception.gapPassed s.clock then s.laneFrameFails n else s

/-- A timer has reached its deadline. -/
def expired (deadline : Option Nat) (now : Nat) : Bool :=
  match deadline with
  | some t => decide (t ≤ now)
  | none => false

/-- PROBE_INTERVAL_EXPIRY (R34). -/
def execProbeIntervalExpiry (n : LaneId) (s : State) : Result :=
  s.event fun s =>
    let l := s.lane n
    if l.state = .probing ∧ expired l.timers.probeInterval s.clock = true then s.mapLane n Lane.restartProbe else s

/-- PROBE_WINDOW_EXPIRY (R36). -/
def execProbeWindowExpiry (n : LaneId) (s : State) : Result :=
  s.event fun s =>
    let l := s.lane n
    if l.state = .probing ∧ expired l.timers.probeWindow s.clock = true then
      (s.mapLane n fun l =>
        ({ l with state := .failed, pendingMissing := 0, timers := .stopped } : Lane).dropWaiting).raise
        .laneFailed (laneBit n)
    else s

/-- SILENCE_EXPIRY (R37). -/
def execSilenceExpiry (n : LaneId) (s : State) : Result :=
  s.event fun s =>
    let l := s.lane n
    if l.inSession = true ∧ expired l.timers.silence s.clock = true then s.loseLane n else s

/-- CLOSE_TIMER_EXPIRY (R41): an assembly in progress is freed. -/
def execCloseTimerExpiry (n : LaneId) (s : State) : Result :=
  s.event fun s =>
    let l := s.lane n
    if l.state = .closing ∧ expired l.timers.close s.clock = true then s.closingEnd n else s

/-- CREDIT_REFRESH_EXPIRY (R67). -/
def execCreditRefreshExpiry (n : LaneId) (s : State) : Result :=
  s.event fun s =>
    let l := s.lane n
    if l.state = .active ∧ expired l.timers.refresh s.clock = true then s.mapLane n (Lane.dueCredit s.clock) else s

/-- The lane transmitter finishes its frame and the next waiting frame begins. A finished PROBE starts the probe interval
timer (10 ms) in PROBING, unless a later PROBE still waits: that one is then the PROBE whose ECHO is awaited (R30, R33;
DEDUCED, log 16). -/
def Lane.frameSent (now : Nat) (l : Lane) : Lane :=
  match l.sending with
  | none => l
  | some f =>
    let l :=
      if f.isProbe = true ∧ l.state = .probing ∧ l.waiting.any LaneFrame.isProbe = false then
        { l with timers := { l.timers with probeInterval := some (now + 10000) } }
      else l
    { l with sending := l.waiting.head?, waiting := l.waiting.tail }

/-- LANE_FRAME_SENT (R30). -/
def execLaneFrameSent (n : LaneId) (s : State) : Result := s.event fun s => s.mapLane n (Lane.frameSent s.clock)

/-! ## Lane requests -/

/-- The lowest-numbered lane of a list that is PROBING, ACTIVE or CLOSING (R25, R32). -/
def State.busyLane (s : State) (lanes : List LaneId) : Option LaneId :=
  lanes.find? fun n =>
    decide ((s.lane n).state = .probing ∨ (s.lane n).state = .active ∨ (s.lane n).state = .closing)

/-- LANE_CONFIG (R25). -/
def laneConfigAct (body : List Byte) (s : State) : State × List Byte :=
  match laneConfigArg body with
  | none => (s, [Result.badArgument])
  | some (lanes, c) =>
    match s.busyLane lanes with
    | some n => (s, [Result.badState, byteOf n.val])
    | none => (lanes.foldl (fun s n => s.mapLane n fun l => { l with config := c }) s, [Result.ok])

/-- LANE_CONFIG (R25). -/
def execLaneConfig (s : State) : Result := s.request Kind.laneConfig laneConfigAct

/-- LANE_OPEN (R32). -/
def laneOpenAct (body : List Byte) (s : State) : State × List Byte :=
  match laneMaskArg body with
  | none => (s, [Result.badArgument])
  | some lanes =>
    match s.busyLane lanes with
    | some n => (s, [Result.badState, byteOf n.val])
    | none => (lanes.foldl (fun s n => s.mapLane n (Lane.enterProbing s.clock)) s, [Result.ok])

/-- LANE_OPEN (R32). -/
def execLaneOpen (s : State) : Result := s.request Kind.laneOpen laneOpenAct

/-- A lane that LANE_CLOSE finds ACTIVE enters CLOSING (R40). -/
def State.enterClosing (n : LaneId) (s : State) : State :=
  (s.mapLane n fun l =>
    (({ l with
        state := .closing
        lastSent := l.limit
        timers := { l.timers with refresh := none, close := some (s.clock + 1000 * l.config.closeTimeout) } } :
        Lane).dropWaiting).makeDue (.close l.limit)).checkWindow n

/-- What LANE_CLOSE does to one lane, and its outcome (R39). -/
def closeLane (n : LaneId) (s : State) : State × Byte :=
  match (s.lane n).state with
  | .active => (s.enterClosing n, ItemOutcome.ok)
  | .probing => (s.endSession n, ItemOutcome.ok)
  | .closing | .down | .failed => (s, ItemOutcome.already)

/-- What LANE_ABORT does to one lane, and its outcome (R43). -/
def abortLane (n : LaneId) (s : State) : State × Byte :=
  let l := s.lane n
  if l.state = .down then (s, ItemOutcome.already)
  else
    let s := (s.endSession n).mapLane n fun l => { l with waiting := [] }
    (if l.inSession then s.raise .laneClosed (laneBit n) else s, ItemOutcome.ok)

/-- One action after another over a list of items, the outcomes gathered in order: each item is judged against the state the
earlier ones left (R181). -/
def eachItem {ι : Type} (act : ι → State → State × Byte) : List ι → State → State × List Byte
  | [], s => (s, [])
  | i :: rest, s =>
    let one := act i s
    let more := eachItem act rest one.1
    (more.1, one.2 :: more.2)

/-- LANE_CLOSE (R39). -/
def laneCloseAct (body : List Byte) (s : State) : State × List Byte :=
  match laneMaskArg body with
  | none => (s, [Result.badArgument])
  | some lanes =>
    let out := eachItem closeLane lanes s
    (out.1, Result.ok :: out.2)

/-- LANE_CLOSE (R39). -/
def execLaneClose (s : State) : Result := s.request Kind.laneClose laneCloseAct

/-- LANE_ABORT (R43). -/
def laneAbortAct (body : List Byte) (s : State) : State × List Byte :=
  match laneMaskArg body with
  | none => (s, [Result.badArgument])
  | some lanes =>
    let out := eachItem abortLane lanes s
    (out.1, Result.ok :: out.2)

/-- LANE_ABORT (R43). -/
def execLaneAbort (s : State) : Result := s.request Kind.laneAbort laneAbortAct

end Sys2Proof.Machine
end

