-- ==== Sys2Proof/Machine/RecordAdmission.lean ====
section
/-! DEFINITION. Record admission: the header decision, the credit window, the end verdict, the intake list, and the credit
allocator (03_record_admission.md, sections 1.4 and 4.1). -/

namespace Sys2Proof.Machine

/-! ## The intake list and the beginning of a walk (R69, R70) -/

/-- The next walk begins with the record at the head of the intake list, or the Classifier is IDLE (R70). -/
def Classifier.beginWalk (now : Nat) (c : Classifier) : Classifier :=
  match c.intake with
  | [] => { c with walk := none }
  | r :: rest => { c with intake := rest, walk := some ⟨r, now⟩ }

/-- A record joins the tail of the intake list; when the Classifier is IDLE the walk begins at once (R69, R70). -/
def Classifier.join (now : Nat) (r : Record) (c : Classifier) : Classifier :=
  let c := { c with intake := c.intake ++ [r] }
  if c.walk.isSome then c else c.beginWalk now

/-! ## The header decision (R49 to R57) -/

/-- The credit window's four cases (R53). -/
inductive WindowCase where
  | inOrder
  | gap (d : Nat)
  | overrun
  | duplicate
  deriving DecidableEq, Repr

/-- A sequence number placed against the credit window (R53). -/
def windowCase (e : Half) (reservation : Nat) (seq : Half) : WindowCase :=
  let d := (seq - e).toNat
  if d = 0 ∧ 1 ≤ reservation then .inOrder
  else if 1 ≤ d ∧ d < reservation then .gap d
  else if d < 32768 then .overrun
  else .duplicate

/-- The record an accepted header makes, with the numbers missing before it (R13, R54 to R56). No byte of its payload has been
received yet (R5). -/
def acceptedRecord (n : LaneId) (h : RecordHeader) (missing : Nat) : Record where
  lane := n
  channel := h.channel
  kind := h.kind
  seq := h.seq
  sourceTime := h.sourceTime
  payloadLength := h.payloadLength.toNat
  missing := if missing = 0 then none else some missing
  payload := []
  arrival := none
  generation := none
  label := none
  queue := none
  admission := none
  deliveryCount := 0
  spilled := false

/-! ## The payload as it arrives (R3, R5, R59) -/

/-- The record with the payload bytes that lane l has received for it so far (R3, R5): in the RECORD frame being gathered, those
behind the bytes up to the header decision, as many as are payload. The CRC bytes behind them are none. -/
def Lane.fillPayload (l : Lane) (r : Record) : Record :=
  match l.receiver with
  | .hunting => r
  | .record covered remaining _ => { r with payload := (l.reception.bytes.drop covered.length).take remaining }

/-- What the lane has received of the payload is written into the record it assembles (R59). -/
def Lane.storePayload (l : Lane) : Lane := { l with assembly := l.assembly.map l.fillPayload }

namespace State

/-- A header is accepted after a gap of d, d = 0 for a record in order (R54, R55, R58): e moves past it, the pending missing
count goes onto the record, the store allocates, and the exhaustion trigger is tested. -/
def acceptHeader (n : LaneId) (h : RecordHeader) (d : Nat) (s : State) : State :=
  let r := acceptedRecord n h (addMissing (s.lane n).pendingMissing d)
  (s.mapLane n fun l =>
    ({ l with
       e := h.seq + 1
       pendingMissing := 0
       assembly := some r
       counters := { l.counters with missingTotal := bumpBy d l.counters.missingTotal } } : Lane).testCreditAfterE
      s.clock).allocate r

/-- The RECORD frame the lane's receiver is gathering has come to hold the bytes given behind its start-of-frame byte, and the
record being assembled those that are its payload. -/
def recordBytes (n : LaneId) (bytes : List Byte) (s : State) : State :=
  s.mapLane n fun l =>
    ({ l with reception := l.reception.holding (laneSof :: bytes) (s.clock + Config.laneCharGap) } : Lane).storePayload

/-- The receiver of the lane goes on inside the RECORD frame. -/
def receiveRecord (n : LaneId) (covered : List Byte) (remaining : Nat) (inSession : Bool) (s : State) : State :=
  s.mapLane n fun l => { l with receiver := .record covered remaining inSession }

/-- The header decision of a RECORD frame in ACTIVE or CLOSING, tested in the order of R49. `bodyLength` is the body length
the frame's length field gives. -/
def headerDecision (n : LaneId) (bodyLength : Nat) (covered : List Byte) (h : RecordHeader) (check : Byte) (s : State) :
    State :=
  if crc8 (headerBytes h) ≠ check then
    (s.mapLane n (Lane.count fun c => { c with headerCheckErrors := bump c.headerCheckErrors })).badFrame n
  else
    let s := s.receiveRecord n covered (bodyLength - 11) true
    let l := s.lane n
    if 240 < h.payloadLength.toNat ∨ bodyLength ≠ 11 + h.payloadLength.toNat then
      s.mapLane n (Lane.count fun c => { c with malformed := bump c.malformed })
    else match windowCase l.e l.reservation h.seq with
      | .inOrder => s.acceptHeader n h 0
      | .gap d => s.acceptHeader n h d
      | .overrun => s.mapLane n (Lane.count fun c => { c with overruns := bump c.overruns })
      | .duplicate => s.mapLane n (Lane.count fun c => { c with duplicates := bump c.duplicates })

/-! ## The end verdict (R60, R61, R62) -/

/-- A good end verdict on the record r being assembled, its payload complete (R60). The arrival time is the Timebase now; for a
frame found among characters looked at again that is the model's choice (log 31). -/
def recordGood (n : LaneId) (r : Record) (s : State) : State :=
  let r := { r with arrival := some s.timebase }
  let s := s.mapLane n fun l =>
    (({ l with assembly := none, receiver := .hunting } : Lane).goodFrame s.clock).count fun c =>
      { c with recordsAccepted := bump c.recordsAccepted }
  ({ s with classifier := s.classifier.join s.clock r } : State).checkWindow n

/-- The end of a RECORD frame that makes no claim: skipped (R49), its assembly ended before (R62), or received outside a
session, where a good frame is a protocol error (R28). -/
def frameEnd (n : LaneId) (inSession good : Bool) (s : State) : State :=
  if good then
    let s := s.mapLane n fun l => { l with receiver := .hunting }
    if inSession then s.mapLane n (Lane.goodFrame s.clock) else s.protocolError n
  else s.badFrame n

/-- A RECORD frame too short for a header decision reaches its end (R49): malformed in a session when good, a protocol error
in the other states (R28), bad when its CRC does not match. -/
def shortRecordEnd (n : LaneId) (good : Bool) (s : State) : State :=
  if good then
    if (s.lane n).inSession then
      s.mapLane n fun l => (l.goodFrame s.clock).count fun c => { c with malformed := bump c.malformed }
    else s.protocolError n
  else s.badFrame n

/-- The covered bytes of a RECORD frame whose body is shorter than the header and its check byte (R49). -/
def isShortRecord (covered : List Byte) : Bool :=
  match covered with
  | l1 :: l0 :: _ :: kind :: body =>
    decide (kind = LaneKind.record) && decide (nat16 l1 l0 = body.length + 2) && decide (body.length < 11)
  | _ => false

end State

/-- RECORD_HEADER (R49). In the other lane states the frame is received without any decision (R27, R28). -/
def execRecordHeader (n : LaneId) (length : Half) (seqByte : Byte) (h : RecordHeader) (check : Byte) (s : State) : Result :=
  s.event fun s =>
    let l := s.lane n
    if l.receiver ≠ .hunting ∨ length.toNat < 13 ∨ 260 < length.toNat then s
    else
      let covered := headerCovered length seqByte h check
      let bodyLength := length.toNat - 2
      let s := s.recordBytes n covered
      if l.inSession then s.headerDecision n bodyLength covered h check
      else s.receiveRecord n covered (bodyLength - 11) false

/-- RECORD_END (R60, R61): the frame's CRC-16 is computed over all it covers and compared with the one received. -/
def execRecordEnd (n : LaneId) (rest : List Byte) (crc : Half) (s : State) : Result :=
  s.event fun s =>
    let l := s.lane n
    match l.receiver with
    | .hunting =>
      if State.isShortRecord rest then (s.recordBytes n (rest ++ be16 crc)).shortRecordEnd n (decide (crc16 rest = crc)) else s
    | .record covered remaining inSession =>
      if rest.length ≠ remaining then s
      else
        let good := decide (crc16 (covered ++ rest) = crc)
        let s := s.recordBytes n (covered ++ rest ++ be16 crc)
        match (s.lane n).assembly with
        | some r => if good then s.recordGood n r else s.recordBad n r
        | none => s.frameEnd n inSession good

/-! ## The credit allocator (R10 to R12) -/

/-- A lane is eligible for a credit (R10). -/
def Lane.eligible (l : Lane) : Bool := decide (l.state = .active) && decide (l.reservation < l.config.creditCap)

namespace State

/-- There is room for one credit (R10). -/
def creditRoom (s : State) : Bool :=
  decide (s.reserved + 1 ≤ s.store.freeDescriptors) && decide (4 * (s.reserved + 1) ≤ s.store.freeBlocks)

/-- The lane the next credit goes to: the first eligible one from the pointer on, when there is room (R10, R11). -/
def grantee (s : State) : Option LaneId :=
  if s.creditRoom then
    let p := s.store.pointer
    [p, p + 1, p + 2, p + 3].find? fun n => (s.lane n).eligible
  else none

/-- One grant to a lane (R10, R11), with the CREDIT tests it brings (R65, R66). -/
def grantTo (n : LaneId) (s : State) : State :=
  let s := s.mapLane n fun l => ({ l with limit := l.limit + 1 } : Lane).testCreditAfterGrant s.clock
  { s with store := { s.store with pointer := n + 1 } }

/-- One grant, when one can be made (R10). -/
def grant (s : State) : State :=
  match s.grantee with
  | some n => s.grantTo n
  | none => s

/-- Grants one after another, at most as many as the first argument says (R12). -/
def grantMany : Nat → State → State
  | 0, s => s
  | k + 1, s => grantMany k s.grant

end State

/-- CREDIT_GRANT (R10). -/
def execCreditGrant (s : State) : Result := s.event State.grant

end Sys2Proof.Machine
end

