-- ==== Sys2Proof/Machine/Classification.lean ====
section
/-! DEFINITION. Rules and chains, the validation and the taking of a commit (04_classification.md). The end of
a walk stands in WalkEnd.lean. -/

namespace Sys2Proof.Machine

/-! ## Rules (R73, R74) -/

/-- A narrow quantity extended with zero bits. -/
def wide (b : Byte) : Half := b.setWidth 16

/-- The quantity a rule reads from a record, or `none` when its field is absent (R73). A code that names no field cannot
stand in the active bank (R87); it is read as absent (DESIGN CHOICE, safe, log 19). -/
def ruleField (r : Record) (e : RuleEntry) : Option Half :=
  match e.field.toNat with
  | 0 => some (BitVec.ofNat 16 r.lane.val)
  | 1 => some r.channel
  | 2 => some (wide r.kind)
  | 3 => some (BitVec.ofNat 16 r.payloadLength)
  | 4 => if e.offset.toNat < r.payloadLength then some (wide (r.payload.getD e.offset.toNat 0)) else none
  | 5 =>
    if e.offset.toNat + 2 ≤ r.payloadLength then
      some (half (r.payload.getD e.offset.toNat 0) (r.payload.getD (e.offset.toNat + 1) 0))
    else none
  | 6 => some (BitVec.ofNat 16 (r.missing.getD 0))
  | _ => none

/-- The operators; all comparisons are unsigned (R74). -/
def ruleCompare (operator : Byte) (masked value : Half) : Bool :=
  match operator.toNat with
  | 0 => decide (masked = value)
  | 1 => decide (masked ≠ value)
  | 2 => decide (value.toNat < masked.toNat)
  | 3 => decide (masked.toNat < value.toNat)
  | 4 => decide (masked ≠ 0)
  | _ => false

/-- An enabled rule's truth for a record; false for every operator when its field is absent (R74). -/
def ruleTrue (r : Record) (e : RuleEntry) : Bool :=
  match ruleField r e with
  | some x => ruleCompare e.operator (x &&& e.mask) e.value
  | none => false

/-! ## Chains (R75 to R77) -/

/-- The first chain that matches, as the index and the entry of its last rule (R77). `i` is the index of the list's first
entry; `so` says that the chain's members so far are all enabled and true (R76). -/
def decidingRule (r : Record) : Nat → Bool → List RuleEntry → Option (Nat × RuleEntry)
  | _, _, [] => none
  | i, so, e :: rest =>
    let ok := so && e.enabled && ruleTrue r e
    if e.chain then decidingRule r (i + 1) ok rest
    else if ok then some (i, e)
    else decidingRule r (i + 1) true rest

/-- What a walk decides (R77). -/
inductive Decision where
  /-- DELIVER(q), with the label byte of the deciding rule (0 is no label) -/
  | deliver (q : QueueId) (label : Byte)
  | discard
  deriving DecidableEq, Repr

/-- The decision of an action code, a queue byte and a label byte. An action code that names nothing, or a queue above 7,
cannot stand in the active bank (R87); the first is read as DISCARD and the second modulo 8 (DESIGN CHOICE, safe, log 19). -/
def decisionOf (action queue label : Byte) : Decision :=
  if action = 1 then .deliver (Fin.ofNat 8 queue.toNat) label else .discard

/-- The decision of a bank on a record, and the index of the deciding rule, or `none` for the default action (R77). -/
def RuleBank.judge (b : RuleBank) (r : Record) : Option Nat × Decision :=
  match decidingRule r 0 true b.rules.toList with
  | some (i, e) => (some i, decisionOf e.action e.queue e.label)
  | none => (none, decisionOf b.defaultAction b.defaultQueue 0)

/-! ## Validation (R86) -/

/-- An action code and a queue byte are valid: DELIVER with 0 to 7, or DISCARD with 0 (R86). -/
def actionValid (action queue : Byte) : Bool :=
  decide (action = 1 ∧ queue.toNat < 8) || decide (action = 0 ∧ queue = 0)

/-- The offset is 0–239 for BYTE, 0–238 for WORD, 0 for every other field (R86). -/
def offsetValid (field offset : Byte) : Bool :=
  match field.toNat with
  | 4 => decide (offset.toNat ≤ 239)
  | 5 => decide (offset.toNat ≤ 238)
  | _ => decide (offset = 0)

/-- A rule entry at an index is valid (R86). -/
def RuleEntry.valid (i : Nat) (e : RuleEntry) : Bool :=
  decide (e.field.toNat ≤ 6) && offsetValid e.field e.offset && decide (e.operator.toNat ≤ 4) &&
  actionValid e.action e.queue && decide (e.label.toNat ≤ 15) && !(decide (i = 31) && e.chain)

/-- The lowest index whose entry is not valid, counting from i. -/
def firstInvalidRule : Nat → List RuleEntry → Option Nat
  | _, [] => none
  | i, e :: rest => if e.valid i then firstInvalidRule (i + 1) rest else some i

/-- The index that INVALID_RULE carries: the first bad rule, or 32 for the default action alone (R87). -/
def RuleBank.firstInvalid (b : RuleBank) : Option Nat :=
  match firstInvalidRule 0 b.rules.toList with
  | some i => some i
  | none => if actionValid b.defaultAction b.defaultQueue then none else some 32

/-- The bank passes commit validation (R86). -/
def RuleBank.valid (b : RuleBank) : Bool := b.firstInvalid.isNone

/-- The switch of a commit: staging is copied into the active bank, the generation rises, the flag is cleared (R88). -/
def Classifier.commit (c : Classifier) : Classifier :=
  { c with active := c.staging, generation := c.generation + 1, pendingCommit := false }

/-- The response to a commit that is taken: OK and the new generation (R88, R188). -/
def commitBody (c : Classifier) : List Byte := Result.ok :: be16 c.generation

/-! ## Requests -/

/-- RULE_SET (R82). -/
def ruleSetAct (body : List Byte) (s : State) : State × List Byte :=
  match ruleSetArg body with
  | none => (s, [Result.badArgument])
  | some (i, e) =>
    let c := s.classifier
    ({ s with classifier := { c with staging := { c.staging with rules := c.staging.rules.set i e } } }, [Result.ok])

/-- RULE_SET (R82). -/
def execRuleSet (s : State) : Result := s.request Kind.ruleSet ruleSetAct

/-- The eleven bytes of a rule entry (R189). -/
def RuleEntry.bytes (e : RuleEntry) : List Byte :=
  (flagByte e.enabled ||| (flagByte e.chain <<< 1)) :: [e.field, e.offset, e.operator] ++ be16 e.mask ++ be16 e.value ++
    [e.action, e.queue, e.label]

/-- The eleven bytes RULE_GET returns for an index, 32 being the default action (R84, R188). -/
def RuleBank.entryBytes (b : RuleBank) (index : Nat) : List Byte :=
  if h : index < 32 then (b.rules[index]).bytes
  else [0, 0, 0, 0, 0, 0, 0, 0, b.defaultAction, b.defaultQueue, 0]

/-- RULE_GET (R84). -/
def ruleGetAct (body : List Byte) (s : State) : State × List Byte :=
  match ruleGetArg body with
  | none => (s, [Result.badArgument])
  | some (active, index) =>
    let bank := if active then s.classifier.active else s.classifier.staging
    (s, Result.ok :: be16 s.classifier.generation ++ bank.entryBytes index)

/-- RULE_GET (R84). -/
def execRuleGet (s : State) : Result := s.request Kind.ruleGet ruleGetAct

/-- DEFAULT_SET (R83). -/
def defaultSetAct (body : List Byte) (s : State) : State × List Byte :=
  match defaultSetArg body with
  | none => (s, [Result.badArgument])
  | some (action, queue) =>
    let c := s.classifier
    ({ s with classifier := { c with staging := { c.staging with defaultAction := action, defaultQueue := queue } } },
      [Result.ok])

/-- DEFAULT_SET (R83). -/
def execDefaultSet (s : State) : Result := s.request Kind.defaultSet defaultSetAct

/-- RULES_REVERT (R85). -/
def rulesRevertAct (_body : List Byte) (s : State) : State × List Byte :=
  ({ s with classifier := { s.classifier with staging := s.classifier.active } }, [Result.ok])

/-- RULES_REVERT (R85). -/
def execRulesRevert (s : State) : Result := s.request Kind.rulesRevert rulesRevertAct

/-- The execution of RULES_COMMIT: refused with INVALID_RULE, taken at once when the Classifier is IDLE, or left pending, its
request in execution, while a walk is in flight (R86 to R89). -/
def State.commitRequest (r : Frame) (s : State) : State :=
  match s.classifier.staging.firstInvalid with
  | some i => s.finish r [Result.invalidRule, byteOf i]
  | none =>
    if s.classifier.walk.isSome then
      { s with
        classifier := { s.classifier with pendingCommit := true }
        link := { s.link with executing := some r } }
    else
      let c := s.classifier.commit
      ({ s with classifier := c } : State).finish r (commitBody c)

/-- RULES_COMMIT (R86). -/
def execRulesCommit (s : State) : Result :=
  .next (s.withRequest (fun r => decide (r.kind = Kind.rulesCommit)) State.commitRequest)

end Sys2Proof.Machine
end

