-- ==== Sys2Proof/Machine/Queues.lean ====
section
/-! DEFINITION. The delivery queues: admission, overflow, spill, requeue by age, and their requests (05_delivery_queues.md). -/

namespace Sys2Proof.Machine

/-- The age of a record in a queue (R98). -/
def Queue.age (x : Queue) (r : Record) : Nat := (x.admissionCounter - r.admission.getD 0).toNat

/-- A record inserted before the first one whose age is smaller than its own, or at the tail (R104). -/
def insertByAge (age : Record → Nat) (r : Record) : List Record → List Record
  | [] => [r]
  | x :: rest => if age x < age r then r :: x :: rest else x :: insertByAge age r rest

namespace State

/-- QUEUE_OVERFLOW is raised for a queue (R110). -/
def raiseOverflow (q : QueueId) (s : State) : State := s.raise .queueOverflow (queueBit q)

/-- A record is admitted at the tail of q with the next admission number (R97, R99). `spill` says that it arrives by a
spill. -/
def enqueue (q : QueueId) (spill : Bool) (r : Record) (s : State) : State :=
  let number := (s.queue q).admissionCounter + 1
  let r := { r with admission := some number, queue := some q }
  let s := s.setQueue q { s.queue q with admissionCounter := number }
  let s := (s.setList q ((s.queue q).list ++ [r])).chargeUp q
  s.countQueue q fun c =>
    if spill then { c with spilledIn := bump c.spilledIn } else { c with admitted := bump c.admitted }

/-- A full queue refuses a record: it is freed, counted, and QUEUE_OVERFLOW is raised (R100). -/
def refuseFull (q : QueueId) (r : Record) (s : State) : State :=
  ((s.freeRecord r).countQueue q fun c => { c with refusedFull := bump c.refusedFull }).raiseOverflow q

/-- A full queue evicts its head (R101). The fall of the queued count is a change of its own (R96, R138; DEDUCED, log 17). -/
def evictHead (q : QueueId) (head : Record) (rest : List Record) (s : State) : State :=
  (((s.setList q rest).chargeDown q).freeRecord head).countQueue q fun c => { c with evicted := bump c.evicted }

/-- A record reaches an enabled queue for admission (R99 to R101). -/
def offer (q : QueueId) (spill : Bool) (r : Record) (s : State) : State :=
  let x := s.queue q
  if x.charge < x.config.depthLimit then s.enqueue q spill r
  else match x.config.policy, x.list with
    | .dropOldest, head :: rest => ((s.evictHead q head rest).enqueue q spill r).raiseOverflow q
    | .dropOldest, [] => s.refuseFull q r
    | .refuseNew, _ => s.refuseFull q r

/-- A requeue: the record returns to its place by age (R104). -/
def requeue (q : QueueId) (r : Record) (s : State) : State :=
  let x := s.queue q
  (s.setList q (insertByAge x.age r x.list)).countQueue q fun c => { c with requeued := bump c.requeued }

/-- An outstanding record of q is dropped: freed, the charge falls, and dropped-exhausted counts it (R102, R129, R132). -/
def dropRecord (q : QueueId) (r : Record) (s : State) : State :=
  ((s.freeRecord r).chargeDown q).countQueue q fun c => { c with droppedExhausted := bump c.droppedExhausted }

/-- A spill from source into target, taken as one step (R102). -/
def spillRecord (source target : QueueId) (r : Record) (s : State) : State :=
  if (s.queue target).config.enabled then
    ((s.chargeDown source).countQueue source fun c => { c with spilledOut := bump c.spilledOut }).offer target true
      { r with deliveryCount := 0, spilled := true }
  else s.dropRecord source r

/-- A record comes back to its source queue by RETURN or by an expiry under REQUEUE: requeued, or exhausted and then spilled
once or dropped (R131, R132). -/
def comeBack (q : QueueId) (r : Record) (s : State) : State :=
  let c := (s.queue q).config
  if c.redeliveryLimit < r.deliveryCount then
    match r.spilled, c.spillQueue with
    | false, some target => s.spillRecord q target r
    | _, _ => s.dropRecord q r
  else s.requeue q r

end State

/-! ## Requests -/

/-- QUEUE_CONFIG (R105): the new values are taken, and the queue's due state is evaluated afresh (R139). -/
def queueConfigAct (body : List Byte) (s : State) : State × List Byte :=
  match queueConfigArg body with
  | none => (s, [Result.badArgument])
  | some (q, c) =>
    let x := s.queue q
    if (c.enabled = false ∧ x.charge ≠ 0) ∨ c.depthLimit < x.charge then (s, Result.badState :: be16Nat x.charge)
    else ((s.setQueue q { x with config := c }).evalDue q, [Result.ok])

/-- QUEUE_CONFIG (R105). -/
def execQueueConfig (s : State) : Result := s.request Kind.queueConfig queueConfigAct

/-- The queue configuration as it stands in a body (R187). -/
def QueueConfig.bytes (c : QueueConfig) : List Byte :=
  (flagByte c.enabled ||| (flagByte (decide (c.policy = .dropOldest)) <<< 1) |||
      (flagByte (decide (c.expiryAction = .drop)) <<< 2)) ::
    be16Nat c.depthLimit ++ [byteOf c.priority] ++ be16Nat c.leaseTime ++ [byteOf c.redeliveryLimit] ++
    [match c.spillQueue with | some q => byteOf q.val | none => 0xFF] ++ be16Nat c.noticeThreshold ++ be16Nat c.noticeHold

/-- The head-present byte and the head's admission number (R107, R188). -/
def headBytes : List Record → List Byte
  | [] => 0 :: be32 0
  | r :: _ => 1 :: be32 (r.admission.getD 0)

/-- QUEUE_GET (R107). -/
def queueGetAct (body : List Byte) (s : State) : State × List Byte :=
  match queueArg body with
  | none => (s, [Result.badArgument])
  | some q =>
    let x := s.queue q
    (s, Result.ok :: x.config.bytes ++ be16Nat x.queued ++ be16Nat x.charge ++ be32 x.admissionCounter ++ headBytes x.list)

/-- QUEUE_GET (R107). -/
def execQueueGet (s : State) : Result := s.request Kind.queueGet queueGetAct

/-- The frees of a list of records, one after another (R15). -/
def State.freeAll (rs : List Record) (s : State) : State := rs.foldl (fun s r => s.freeRecord r) s

/-- QUEUE_PURGE (R108). -/
def queuePurgeAct (body : List Byte) (s : State) : State × List Byte :=
  match queueArg body with
  | none => (s, [Result.badArgument])
  | some q =>
    let x := s.queue q
    let n := x.queued
    ((((s.freeAll x.list).setList q []).setCharge q (x.charge - n)).countQueue q fun c =>
      { c with purged := bumpBy n c.purged }, Result.ok :: be16Nat n)

/-- QUEUE_PURGE (R108). -/
def execQueuePurge (s : State) : Result := s.request Kind.queuePurge queuePurgeAct

end Sys2Proof.Machine
end

