-- ==== Sys2Proof/Machine/Delivery.lean ====
section
/-! DEFINITION. The Delivery Unit: FETCH in both modes, RELEASE, RETURN, EXTEND and lease expiry
(06_fetch_leases_and_release.md). -/

namespace Sys2Proof.Machine

namespace State

/-- A slot is emptied: its issue count advances, and its record and deadline are forgotten (R116). -/
def emptySlot (i : SlotId) (s : State) : State := s.setSlot i ⟨(s.slot i).issue + 1, none⟩

/-- The lowest-numbered EMPTY slot (R120). -/
def freeSlot (s : State) : Option SlotId := allSlots.find? fun i => (s.slot i).occupant.isNone

end State

/-! ## FETCH (R117 to R122) -/

/-- The flags byte of an entry (R190). -/
def entryFlags (r : Record) (redelivered handle : Bool) : Byte :=
  flagByte r.missing.isSome ||| (flagByte r.label.isSome <<< 1) ||| (flagByte redelivered <<< 2) |||
    (flagByte r.spilled <<< 3) ||| (flagByte handle <<< 4)

/-- The optional bytes of an entry. -/
def optBytes {α : Type} (f : α → List Byte) : Option α → List Byte
  | some x => f x
  | none => []

/-- A record's entry in a FETCH response (R122, R190); a handle stands in it in CLAIM mode. -/
def entryBytes (r : Record) (redelivered : Bool) (handle : Option Half) : List Byte :=
  [entryFlags r redelivered handle.isSome, byteOf ((r.queue.getD 0).val), byteOf r.lane.val, r.kind] ++
  be16 r.channel ++ be16 r.seq ++ be32 r.sourceTime ++ be32 (r.arrival.getD 0) ++ be16 (r.generation.getD 0) ++
  [byteOf r.deliveryCount, byteOf r.payloadLength] ++ optBytes be16 handle ++ optBytes (fun l => [l]) r.label ++
  optBytes be16Nat r.missing ++ r.payload

/-- The bytes of a record's entry (R119). -/
def entrySize (mode : FetchMode) (r : Record) : Nat :=
  20 + (match mode with | .claim => 2 | .take => 0) + (if r.label.isSome then 1 else 0) +
    (if r.missing.isSome then 2 else 0) + r.payloadLength

/-- The lease deadline a CLAIM delivery or an EXTEND sets (R120, R127, R128). -/
def leaseDeadline (c : QueueConfig) (now : Nat) : Option Nat :=
  if c.leaseTime = 0 then none else some (now + 1000 * c.leaseTime)

namespace State

/-- One CLAIM delivery of q's head r into slot i (R120), with its entry (R122). -/
def claimHead (q : QueueId) (r : Record) (rest : List Record) (i : SlotId) (s : State) : State × List Byte :=
  let r := { r with deliveryCount := satAdd 255 r.deliveryCount 1 }
  let issue := (s.slot i).issue
  let s := s.setList q rest
  let s := s.setSlot i ⟨issue, some ⟨r, q, leaseDeadline (s.queue q).config s.clock⟩⟩
  (s.countQueue q fun c => { c with delivered := bump c.delivered },
    entryBytes r (decide (1 < r.deliveryCount)) (some (handleOf issue i)))

/-- One TAKE delivery of q's head r (R121), with its entry (R122). -/
def takeHead (q : QueueId) (r : Record) (rest : List Record) (s : State) : State × List Byte :=
  ((((s.setList q rest).chargeDown q).freeRecord r).countQueue q fun c => { c with taken := bump c.taken },
    entryBytes r (decide (1 ≤ r.deliveryCount)) none)

/-- The next delivery from q, when the list is not empty, a slot is EMPTY in CLAIM mode, and the entry fits after the
`used` bytes of entries already placed (R119). -/
def deliverHead (mode : FetchMode) (q : QueueId) (used : Nat) (s : State) : Option (State × List Byte) :=
  match (s.queue q).list with
  | [] => none
  | r :: rest =>
    if 1022 < used + entrySize mode r then none
    else match mode with
      | .claim => s.freeSlot.map fun i => s.claimHead q r rest i
      | .take => some (s.takeHead q r rest)

/-- Deliveries from q one after another, at most `k` of them (R119); the entries in the order taken. -/
def deliverMany (mode : FetchMode) (q : QueueId) : Nat → Nat → State → State × List (List Byte)
  | 0, _, s => (s, [])
  | k + 1, used, s =>
    match s.deliverHead mode q used with
    | none => (s, [])
    | some (s', entry) =>
      let more := deliverMany mode q k (used + entry.length) s'
      (more.1, entry :: more.2)

/-- The queue is a candidate of FETCH naming ANY (R118). -/
def candidate (s : State) (q : QueueId) : Bool := (s.queue q).config.enabled && !(s.queue q).list.isEmpty

/-- The candidate of best priority, the lowest-numbered among equals (R118). -/
def bestQueue (s : State) : Option QueueId :=
  ([0, 1, 2, 3] : List Nat).findSome? fun p =>
    allQueues.find? fun q => s.candidate q && decide ((s.queue q).config.priority = p)

/-- Which queue a FETCH reads from, or the result that ends it with no record (R117). -/
def fetchTarget (s : State) (q : Option QueueId) (mode : FetchMode) : Except Byte QueueId :=
  let slots (q : QueueId) : Except Byte QueueId :=
    if mode = .claim ∧ s.freeSlot = none then .error Result.outstandingFull else .ok q
  match q with
  | some q =>
    if (s.queue q).config.enabled = false then .error Result.queueDisabled
    else if (s.queue q).list = [] then .error Result.empty
    else slots q
  | none =>
    match s.bestQueue with
    | none => .error Result.empty
    | some q => slots q

end State

/-- FETCH (R117 to R123). -/
def fetchAct (body : List Byte) (s : State) : State × List Byte :=
  match fetchArg body with
  | none => (s, [Result.badArgument, 0])
  | some (q, maxCount, mode) =>
    match s.fetchTarget q mode with
    | .error code => (s, [code, 0])
    | .ok q =>
      let out := s.deliverMany mode q maxCount 0
      (out.1, Result.ok :: byteOf out.2.length :: out.2.flatten)

/-- FETCH (R117). -/
def execFetch (s : State) : Result := s.request Kind.fetch fetchAct

/-! ## Settling handles (R124 to R127) -/

/-- What a valid handle names: its slot is OCCUPIED under the handle's issue count (R115). -/
def State.validHandle (s : State) (h : Half) : Option Occupant :=
  let x := s.slot (handleSlot h)
  if x.issue = handleIssue h then x.occupant else none

/-- RELEASE of one handle (R125). -/
def releaseHandle (h : Half) (s : State) : State × Byte :=
  match s.validHandle h with
  | none => (s, ItemOutcome.stale)
  | some o =>
    ((((s.freeRecord o.record).emptySlot (handleSlot h)).chargeDown o.source).countQueue o.source fun c =>
      { c with released := bump c.released }, ItemOutcome.released)

/-- RETURN of one handle (R126). -/
def returnHandle (h : Half) (s : State) : State × Byte :=
  match s.validHandle h with
  | none => (s, ItemOutcome.stale)
  | some o =>
    (((s.emptySlot (handleSlot h)).countQueue o.source fun c => { c with returned := bump c.returned }).comeBack
      o.source o.record, ItemOutcome.returned)

/-- EXTEND of one handle (R127). -/
def extendHandle (h : Half) (s : State) : State × Byte :=
  match s.validHandle h with
  | none => (s, ItemOutcome.stale)
  | some o =>
    let i := handleSlot h
    let d := leaseDeadline (s.queue o.source).config s.clock
    (s.setSlot i { s.slot i with occupant := some { o with deadline := d } },
      if d.isSome then ItemOutcome.extended else ItemOutcome.unleased)

/-- A request that settles a list of handles, in list order (R124). -/
def settleAct (one : Half → State → State × Byte) (body : List Byte) (s : State) : State × List Byte :=
  match handlesArg body with
  | none => (s, [Result.badArgument])
  | some handles =>
    let out := eachItem one handles s
    (out.1, Result.ok :: byteOf handles.length :: out.2)

/-- RELEASE (R125). -/
def execRelease (s : State) : Result := s.request Kind.release (settleAct releaseHandle)

/-- RETURN (R126). -/
def execReturnHandles (s : State) : Result := s.request Kind.returnHandles (settleAct returnHandle)

/-- EXTEND (R127). -/
def execExtend (s : State) : Result := s.request Kind.extend (settleAct extendHandle)

/-! ## Lease expiry (R129) -/

/-- The lease of a slot's occupant expires (R129). -/
def State.expireLease (i : SlotId) (o : Occupant) (s : State) : State :=
  let s := ((s.emptySlot i).countQueue o.source fun c => { c with expired := bump c.expired }).raise .leaseExpired
    (queueBit o.source)
  match (s.queue o.source).config.expiryAction with
  | .drop => s.dropRecord o.source o.record
  | .requeue => s.comeBack o.source o.record

/-- LEASE_EXPIRY (R129): the slot's deadline has arrived. -/
def execLeaseExpiry (slot : SlotId) (s : State) : Result :=
  s.event fun s =>
    match (s.slot slot).occupant with
    | some o => if expired o.deadline s.clock then s.expireLease slot o else s
    | none => s

end Sys2Proof.Machine
end

