-- ==== Sys2Proof/Machine/NoticeUnit.lean ====
section
/-! DEFINITION. Notices: the snapshot, the beginning of a notice, acknowledgement, renotice, hold expiry, configuration, and what
SYNC does to the Notice Unit (07_notices_and_alerts.md, R191). -/

namespace Sys2Proof.Machine

/-! ## The snapshot and the notice frame (R142, R191) -/

/-- The contents of a notice at this moment (R142). The due mask is the queues' due state as last evaluated (R139, log 18). -/
def State.takeSnapshot (s : State) : Snapshot where
  counts := mapVec Queue.queued s.queues
  due := mapVec Level.due s.notice.levels
  outstanding := s.outstanding
  freeDescriptors := s.store.freeDescriptors
  freeBlocks := s.store.freeBlocks
  lanes := mapVec Lane.state s.lanes
  errorFlag := s.link.errorFlag
  alerts := s.notice.alerts
  taken := s.clock

/-- An alert entry's three bytes (R188, R191). -/
def AlertEntry.bytes (a : AlertEntry) : List Byte := [a.kind.code, byteOf a.count, a.subjects]

/-- The number of alert entries and the entries (R188, R191). -/
def alertBytes (alerts : List AlertEntry) : List Byte := byteOf alerts.length :: alerts.flatMap AlertEntry.bytes

/-- A queue mask from one flag per queue. -/
def queueMask (v : Vector Bool 8) : Byte :=
  allQueues.foldl (fun m q => if v[q] then m ||| queueBit q else m) 0

/-- The body of a NOTICE frame (R191). -/
def Snapshot.body (sn : Snapshot) : List Byte :=
  sn.counts.toList.flatMap be16Nat ++ [queueMask sn.due, byteOf sn.outstanding] ++ be16Nat sn.freeDescriptors ++
    be16Nat sn.freeBlocks ++ sn.lanes.toList.map LaneState.code ++ [flagByte sn.errorFlag] ++ alertBytes sn.alerts

/-- What the Notice Unit holds once a notice has begun (R142). -/
def Notice.began (sn : Snapshot) (now : Nat) (n : Notice) : Notice :=
  { n with
    tag := n.tag + 1
    snapshot := some sn
    dirty := false
    renotice := n.renoticeDeadline now
    state := .awaitingAck }

namespace State

/-- A notice request waits in the outbound queue and the transmitter may serve it (R140, R165, R169). -/
def noticeWaits (s : State) : Bool := decide (s.notice.state = .waitingLink) && !s.link.resetPending

/-- The transmitter begins the notice (R142, R165). -/
def beginNotice (s : State) : State :=
  let sn := s.takeSnapshot
  let n := s.notice.began sn s.clock
  ({ s with
     notice := n
     link := { s.link with sending := some (.notice ⟨n.tag, Kind.notice, sn.body⟩) } } : State).countLink fun c =>
    { c with noticesSent := bump c.noticesSent }

/-- The idle transmitter, with no response frame waiting, begins the notice that waits (R165). -/
def serveNotice (s : State) : State :=
  if s.link.sending = none ∧ s.link.outbound = [] ∧ s.noticeWaits = true then s.beginNotice else s

/-- In QUIET a notice is requested when R141's conditions hold. -/
def requestNotice (s : State) : State := { s with notice := s.notice.request s.synced }

end State

/-- NOTICE_BEGIN (R142). -/
def execNoticeBegin (s : State) : Result := s.event State.serveNotice

/-! ## Renotice and hold expiry -/

/-- The renotice (R147). -/
def Notice.renew (n : Notice) : Notice := { n with snapshot := none, renotice := none, state := .waitingLink }

/-- RENOTICE_EXPIRY (R147). A timer left running when the interval became 0 expires too (log 32). -/
def execRenoticeExpiry (s : State) : Result :=
  s.event fun s =>
    if s.notice.state = .awaitingAck ∧ expired s.notice.renotice s.clock = true then
      { s with notice := s.notice.renew }
    else s

/-- HOLD_EXPIRY (R139): the hold expiry of q has been reached, and its due state is evaluated afresh. -/
def execHoldExpiry (q : QueueId) (s : State) : Result :=
  s.event fun s =>
    if expired (holdDeadline (s.queue q).config s.notice.levels[q]) s.clock then s.evalDue q else s

/-! ## Acknowledgement (R144 to R146) -/

/-- A queue's level after a matching acknowledgement (R146): P from the snapshot for a queue in its due mask, and the due
state evaluated afresh. -/
def acknowledgedLevel (sn : Snapshot) (q : QueueId) (c : QueueConfig) (count now : Nat) (l : Level) : Level :=
  let l :=
    if sn.due[q] then
      let p := min sn.counts[q] count
      { l with reported := p, since := if p < count then some sn.taken else none }
    else l
  { l with due := isDue c count l now }

/-- The levels of all queues after a matching acknowledgement. -/
def State.acknowledgedLevels (s : State) (sn : Snapshot) : Vector Level 8 :=
  eachQueue fun q => acknowledgedLevel sn q (s.queue q).config (s.queue q).queued s.clock s.notice.levels[q]

/-- A matching acknowledgement (R145, R146): the alerts are subtracted, the levels set, and the next state chosen. -/
def State.acknowledge (sn : Snapshot) (s : State) : State :=
  let n := { s.notice with
    alerts := subtractAlerts sn.alerts s.notice.alerts
    levels := s.acknowledgedLevels sn
    snapshot := none
    renotice := none }
  let next := if n.enabled = true ∧ (n.dirty || n.wanted) = true then NoticeState.waitingLink else .quiet
  { s with notice := { n with state := next, dirty := false } }

/-- NOTICE_ACK (R144). -/
def noticeAckAct (body : List Byte) (s : State) : State × List Byte :=
  match noticeAckArg body with
  | none => (s, [Result.badArgument])
  | some tag =>
    match s.notice.state, s.notice.snapshot with
    | .awaitingAck, some sn =>
      if tag = s.notice.tag then (s.acknowledge sn, [Result.ok]) else (s, [Result.staleTag])
    | _, _ => (s, [Result.staleTag])

/-- NOTICE_ACK (R144). -/
def execNoticeAck (s : State) : Result := s.request Kind.noticeAck noticeAckAct

/-! ## Configuration (R18, R148) -/

/-- A new store-low watermark is applied and tested (R18). -/
def State.setWatermark (w : Nat) (s : State) : State :=
  let st := { s.store with watermark := w }
  let armed := st.armed || decide (rearmLevel w ≤ st.freeDescriptors)
  if st.armed then ({ s with store := st } : State).storeLowTest else { s with store := { st with armed := armed } }

/-- What the enable value does to the notice state (R148). A running renotice timer keeps its deadline when the interval changes
(R147). DESIGN CHOICE, unsafe (log 32): so it does when the interval becomes 0, although R147 also says that no renotice is sent
then and R140 that the timer does not run. -/
def Notice.applyEnable (now : Nat) (synced : Bool) (n : Notice) : Notice :=
  match n.state, n.enabled with
  | .quiet, false => n
  | .quiet, true => n.request synced
  | .waitingLink, false => { n with state := .quiet }
  | .waitingLink, true => n
  | .awaitingAck, false => { n with renotice := none }
  | .awaitingAck, true => if n.renotice.isSome then n else { n with renotice := n.renoticeDeadline now }

/-- NOTICE_CONFIG (R148). -/
def noticeConfigAct (body : List Byte) (s : State) : State × List Byte :=
  match noticeConfigArg body with
  | none => (s, [Result.badArgument])
  | some (enable, interval, watermark) =>
    let s := ({ s with notice := { s.notice with enabled := enable, interval := interval } } : State).setWatermark watermark
    ({ s with notice := s.notice.applyEnable s.clock s.synced }, [Result.ok])

/-- NOTICE_CONFIG (R148). -/
def execNoticeConfig (s : State) : Result := s.request Kind.noticeConfig noticeConfigAct

/-! ## SYNC and the Notice Unit (R149) -/

/-- A queue's level at SYNC: P = 0, and every queued record unreported from now (R149). -/
def syncLevel (c : QueueConfig) (count now : Nat) : Level :=
  let l : Level := ⟨0, if 0 < count then some now else none, false⟩
  { l with due := isDue c count l now }

/-- The Notice Unit at SYNC: QUIET, and R141 tested at once (R149). -/
def State.syncNotice (s : State) : State :=
  let n := { s.notice with
    state := .quiet
    snapshot := none
    renotice := none
    dirty := false
    levels := eachQueue fun q => syncLevel (s.queue q).config (s.queue q).queued s.clock }
  ({ s with notice := n } : State).requestNotice

end Sys2Proof.Machine
end

