-- ==== Sys2Proof/Machine/ControlLink.lean ====
section
/-! DEFINITION. The Control Link Controller: link errors, the taking of good frames by sequence number and link state, SYNC,
IDENT, the link's own requests and the transmitter (08_the_control_link.md). -/

namespace Sys2Proof.Machine

/-! ## Link errors (R153, R154) -/

namespace State

/-- A link error is taken (R154), counted by the counter given; hunting resumes behind the start-of-frame byte of the frame
that suffered it (R153). -/
def linkErrorTaken (count : LinkCounters → LinkCounters) (s : State) : State :=
  let s := { s with link := { s.link with errorFlag := true, reception := s.link.reception.rehunt } }
  let s := (s.countLink count).raise .linkError 0
  if s.link.mode = .strict ∧ s.link.state = .opened then { s with link := { s.link with state := .halted } } else s

end State

/-- The counter of each kind of link error (R168). -/
def linkErrorCount (k : LinkErrorKind) (c : LinkCounters) : LinkCounters :=
  match k with
  | .length => { c with lengthErrors := bump c.lengthErrors }
  | .framing => { c with framingErrors := bump c.framingErrors }
  | .crc => { c with crcErrors := bump c.crcErrors }

/-- LINK_ERROR (R154). -/
def execLinkError (k : LinkErrorKind) (s : State) : Result := s.event (State.linkErrorTaken (linkErrorCount k))

/-- GAP_ERROR (R153): more than the gap timeout has passed since the last character of the frame being gathered. -/
def execGapError (s : State) : Result :=
  s.event fun s =>
    if s.link.reception.gapPassed s.clock then s.linkErrorTaken fun c => { c with gapErrors := bump c.gapErrors } else s

/-! ## SYNC (R166) -/

namespace State

/-- SYNC is taken, with room for its response: the one step of R166. -/
def syncStep (seq : Byte) (s : State) : State :=
  let state := if s.link.state = .unsynced then LinkState.opened else s.link.state
  let s := { s with link :=
    { s.link with requests := [], cache := [], expected := some (seq + 1), state := state } }
  s.syncNotice.place
    (.response ⟨seq, responseKind Kind.sync, [Result.ok, state.code, flagByte s.link.errorFlag]⟩)

/-- SYNC is taken, or its answer finds no room and it is not executed (R164, R166). -/
def takeSync (seq : Byte) (s : State) : State :=
  if s.answerRoom then s.syncStep seq
  else s.countLink fun c => { c with answersDropped := bump c.answersDropped }

/-- The waiting SYNCs are taken one after another in order of arrival (R166). -/
def takeWaitingSyncs (s : State) : State :=
  s.link.syncWaiting.foldl (fun s seq => s.takeSync seq) { s with link := { s.link with syncWaiting := [] } }

/-- A refusal made at arrival, counted as a refused answer (R168). -/
def refuse (seq kind code : Byte) (s : State) : State :=
  s.answer ⟨seq, responseKind kind, [code]⟩ fun c => { c with refusedAnswers := bump c.refusedAnswers }

/-- A SYNC frame at its arrival (R166): refused with BAD_LENGTH, made to wait for an execution to end, or taken. -/
def syncArrives (seq : Byte) (body : List Byte) (s : State) : State :=
  if body ≠ [] then s.refuse seq Kind.sync Result.badLength
  else if s.link.executing.isSome then
    { s with link := { s.link with syncWaiting := s.link.syncWaiting ++ [seq] } }
  else s.takeSync seq

end State

/-! ## IDENT (R167) -/

/-- The body of the IDENT response (R167, R188). -/
def identBody (bitRate : Nat) : List Byte :=
  [Result.ok, 0x41, 0x57, 0x43, 0x57, 0x2D, 0x34, 0x31, 0x38, 0x00, 0x00, 0x42, 4, 8, 32] ++ be16Nat 1024 ++ be16Nat 2048 ++
    [64, 64, 4, 4] ++ be32Nat bitRate

/-- IDENT (R167), executed from the request queue. -/
def identAct (_body : List Byte) (s : State) : State × List Byte := (s, identBody s.link.bitRate)

/-- IDENT (R167). -/
def execIdent (s : State) : Result := s.request Kind.ident identAct

/-! ## Good frames (R158 to R160, R163, R164) -/

namespace State

/-- A good frame in UNSYNCED that is not a SYNC (R159). -/
def takeUnsynced (f : Frame) (s : State) : State :=
  if f.kind = Kind.ident then
    s.answer ⟨f.seq, responseKind f.kind, if f.body = [] then identBody s.link.bitRate else [Result.badLength]⟩ id
  else s.refuse f.seq f.kind Result.notSynced

/-- The kinds a HALTED link still takes as new requests (R160). -/
def takenWhileHalted (kind : Byte) : Bool :=
  decide (kind = Kind.status) || decide (kind = Kind.ident) || decide (kind = Kind.clearError)

/-- A new request (R158, R160): refused in HALTED, queued, or answered BUSY. -/
def takeNew (f : Frame) (s : State) : State :=
  if s.link.state = .halted ∧ takenWhileHalted f.kind = false then s.refuse f.seq f.kind Result.linkHalted
  else if s.link.requests.length < 4 then
    { s with link := { s.link with requests := s.link.requests ++ [f], expected := some (f.seq + 1) } }
  else s.answer ⟨f.seq, responseKind f.kind, [Result.busy]⟩ fun c => { c with busyAnswers := bump c.busyAnswers }

/-- The sequence number is that of a request in the request queue or in execution (R158). -/
def inHand (seq : Byte) (s : State) : Bool :=
  s.link.requests.any (fun r => decide (r.seq = seq)) ||
  (match s.link.executing with
   | some r => decide (r.seq = seq)
   | none => false)

/-- The cached frame waits in the outbound queue and has not begun to be sent (R163; DEDUCED, log 15). -/
def cachedWaits (f : Frame) (s : State) : Bool := s.link.outbound.any fun o => decide (o.frame = f)

/-- A retransmission is answered from the reply cache (R163). -/
def resend (f : Frame) (s : State) : State :=
  if s.cachedWaits f then s else s.answer f fun c => { c with resent := bump c.resent }

/-- A good frame that is not a SYNC, in OPEN or HALTED, classified by its sequence number (R158). -/
def takeSynced (f : Frame) (s : State) : State :=
  if s.link.expected = some f.seq then s.takeNew f
  else if s.inHand f.seq then s
  else match s.link.cache.find? (fun e => decide (e.seq = f.seq)) with
    | some e => s.resend e.frame
    | none =>
      s.answer ⟨f.seq, responseKind f.kind, [Result.badSequence, s.link.expected.getD 0]⟩ fun c =>
        { c with sequenceAnswers := bump c.sequenceAnswers }

/-- A good frame is taken (R158, R159, R166). It is counted in every state; after the execution of RESET(PART) it is discarded
unanswered (R169; log 13). -/
def frameArrives (f : Frame) (s : State) : State :=
  let s := s.frameHeard
  if s.link.resetPending then s
  else if f.kind = Kind.sync then s.syncArrives f.seq f.body
  else match s.link.state with
    | .unsynced => s.takeUnsynced f
    | .opened | .halted => s.takeSynced f

end State

/-- CONTROL_FRAME_RECEIVED (R158). -/
def execControlFrameReceived (seq kind : Byte) (body : List Byte) (s : State) : Result :=
  s.event (State.frameArrives ⟨seq, kind, body⟩)

/-- SYNC (R166): a good frame of kind SYNC. -/
def execSync (seq : Byte) (body : List Byte) (s : State) : Result := s.event (State.frameArrives ⟨seq, Kind.sync, body⟩)

/-! ## The link's own requests -/

/-- LINK_CONFIG (R157). -/
def linkConfigAct (body : List Byte) (s : State) : State × List Byte :=
  match linkConfigArg body with
  | none => (s, [Result.badArgument])
  | some (mode, gap) => ({ s with link := { s.link with mode := mode, gapTimeout := gap } }, [Result.ok])

/-- LINK_CONFIG (R157). -/
def execLinkConfig (s : State) : Result := s.request Kind.linkConfig linkConfigAct

/-- CLEAR_ERROR (R156): the flag is cleared, and a HALTED link becomes OPEN. -/
def clearErrorAct (_body : List Byte) (s : State) : State × List Byte :=
  ({ s with link := { s.link with
      errorFlag := false, state := if s.link.state = .halted then .opened else s.link.state } }, [Result.ok])

/-- CLEAR_ERROR (R156). -/
def execClearError (s : State) : Result := s.request Kind.clearError clearErrorAct

/-- UNKNOWN_REQUEST (R162): the execution of a request of unknown kind ends with the refusal, which is cached. -/
def execUnknownRequest (s : State) : Result :=
  .next (match s.startable with
    | some r => if knownKind r.kind then s else s.popRequest.finish r [Result.unknownRequest]
    | none => s)

/-! ## The end of a frame on the outbound line (R165, R176) -/

namespace State

/-- The PART reset takes effect (R176): every block takes its power-on values and the Timebase returns to 0; the bit rate is
kept (R169). -/
def partReset (s : State) : State := .powerOn s.pending s.lines true s.link.bitRate

/-- The transmitter finishes its frame and begins the next one (R165). The end of the RESET(PART) response is the PART reset
(R176; DEDUCED, log 12). -/
def frameSent (s : State) : State :=
  match s.link.sending with
  | none => s
  | some (.resetResponse _) => s.partReset
  | some (.response _) | some (.notice _) =>
    (({ s with link := { s.link with sending := none } } : State).pump).serveNotice

/-- The RESET(PART) response is being sent. -/
def sendingReset (s : State) : Bool :=
  match s.link.sending with
  | some (.resetResponse _) => true
  | some (.response _) | some (.notice _) | none => false

end State

/-- CONTROL_FRAME_SENT (R165). -/
def execControlFrameSent (s : State) : Result := s.event State.frameSent

/-- PART_RESET_EFFECT (R176): the last byte of the RESET(PART) response has been sent. -/
def execPartResetEffect (s : State) : Result := s.event fun s => if s.sendingReset then s.partReset else s

end Sys2Proof.Machine
end

