-- ==== Sys2Proof/Machine/WalkEnd.lean ====
section
/-! DEFINITION. The end of a walk: its decision counted and handed on, a pending commit taken, the next walk begun (R70, R71,
R77 to R80, R88). -/

namespace Sys2Proof.Machine

/-- The counters a walk's decision raises (R77, R91). -/
def Classifier.countDecision (rule : Option Nat) (c : Classifier) : Classifier :=
  let k := { c.counters with walks := bump c.counters.walks }
  match rule with
  | some i => { c with matches_ := c.matches_.setIfInBounds i (bump (c.matches_.getD i 0)), counters := k }
  | none => { c with counters := { k with defaultDecisions := bump k.defaultDecisions } }

namespace State

/-- A change of the classifier counters. -/
def countClassifier (f : ClassifierCounters → ClassifierCounters) (s : State) : State :=
  { s with classifier := { s.classifier with counters := f s.classifier.counters } }

/-- An outcome is handed on (R78 to R80): to the Queue Manager, or the record is freed. -/
def handOn (d : Decision) (r : Record) (s : State) : State :=
  match d with
  | .discard => (s.freeRecord r).countClassifier fun c => { c with discards := bump c.discards }
  | .deliver q label =>
    if (s.queue q).config.enabled then
      (s.countClassifier fun c => { c with handedOver := bump c.handedOver }).offer q false
        { r with generation := some s.classifier.generation, label := if label = 0 then none else some label }
    else
      ((s.freeRecord r).countClassifier fun c => { c with noQueue := bump c.noQueue }).countQueue q fun c =>
        { c with refusedDisabled := bump c.refusedDisabled }

/-- A pending commit is taken: its request's execution ends with OK, and the SYNCs that waited for it are taken (R88, R166). -/
def takeCommit (s : State) : State :=
  if s.classifier.pendingCommit then
    let c := s.classifier.commit
    let s' := { s with classifier := c, link := { s.link with executing := none } }
    match s.link.executing with
    | some r => (s'.finish r (commitBody c)).takeWaitingSyncs
    | none => s'
  else s

/-- The walk in flight ends with its outcome handed on (R71, R77). -/
def endWalk (w : Walk) (s : State) : State :=
  let out := s.classifier.active.judge w.record
  let s := { s with classifier := { s.classifier.countDecision out.1 with walk := none } }
  let s := (s.handOn out.2 w.record).takeCommit
  { s with classifier := s.classifier.beginWalk s.clock }

end State

/-- WALK_END (R71). -/
def execWalkEnd (s : State) : Result :=
  s.event fun s =>
    match s.classifier.walk with
    | some w => s.endWalk w
    | none => s

end Sys2Proof.Machine
end

