-- ==== Sys2Proof/Machine/Status.lean ====
section
/-! DEFINITION. STATUS and COUNTERS (sections 9.1 and 9.2). -/

namespace Sys2Proof.Machine

/-! ## STATUS (R171, R188) -/

/-- A lane's six bytes in a STATUS body. -/
def Lane.statusBytes (l : Lane) : List Byte := [l.state.code] ++ be16 l.e ++ be16 l.limit ++ [byteOf l.reservation]

/-- A queue's four bytes in a STATUS body. -/
def Queue.statusBytes (x : Queue) : List Byte := be16Nat x.queued ++ be16Nat x.charge

/-- The STATUS body (R171, R188). -/
def statusBody (s : State) : List Byte :=
  [Result.ok, s.link.state.code, s.link.mode.code, flagByte s.link.errorFlag] ++
  s.lanes.toList.flatMap Lane.statusBytes ++ s.queues.toList.flatMap Queue.statusBytes ++ [byteOf s.outstanding] ++
  be16Nat s.store.freeDescriptors ++ be16Nat s.store.freeBlocks ++ be16Nat s.reserved ++ be16 s.classifier.generation ++
  [flagByte s.classifier.pendingCommit, s.notice.state.code, s.notice.tag] ++ alertBytes s.notice.alerts

/-- STATUS (R171). -/
def statusAct (_body : List Byte) (s : State) : State × List Byte := (s, statusBody s)

/-- STATUS (R171). -/
def execStatus (s : State) : Result := s.request Kind.status statusAct

/-! ## COUNTERS (R173, R174) -/

/-- A lane's counters in the order of R173. -/
def LaneCounters.values (c : LaneCounters) : List Nat :=
  [c.framesBad, c.protocolErrors, c.probeRetries, c.recordsAccepted, c.duplicates, c.overruns, c.malformed,
   c.headerCheckErrors, c.crcErrors, c.missingTotal]

/-- A queue's counters in the order of R173. -/
def QueueCounters.values (c : QueueCounters) : List Nat :=
  [c.admitted, c.refusedFull, c.refusedDisabled, c.evicted, c.delivered, c.taken, c.released, c.returned, c.expired,
   c.requeued, c.spilledOut, c.spilledIn, c.droppedExhausted, c.purged]

/-- The six classifier counters in the order of R173. -/
def ClassifierCounters.values (c : ClassifierCounters) : List Nat :=
  [c.walks, c.defaultDecisions, c.handedOver, c.noQueue, c.discards, c.abandoned]

/-- The link counters in the order of R173. -/
def LinkCounters.values (c : LinkCounters) : List Nat :=
  [c.goodFrames, c.lengthErrors, c.framingErrors, c.gapErrors, c.crcErrors, c.requestsExecuted, c.resent, c.busyAnswers,
   c.sequenceAnswers, c.refusedAnswers, c.answersDropped, c.noticesSent]

/-- The counters of a group (R173). -/
def State.groupValues (s : State) : CounterGroup → List Nat
  | .lane n => (s.lane n).counters.values
  | .queue q => (s.queue q).counters.values
  | .rules => s.classifier.matches_.toList ++ s.classifier.counters.values
  | .link => s.link.counters.values

/-- Every counter of a group set to 0 (R174). -/
def State.clearGroup (g : CounterGroup) (s : State) : State :=
  match g with
  | .lane n => s.mapLane n (Lane.count fun _ => .zero)
  | .queue q => s.countQueue q fun _ => .zero
  | .rules => { s with classifier := { s.classifier with matches_ := Vector.replicate 32 0, counters := .zero } }
  | .link => s.countLink fun _ => .zero

/-- COUNTERS (R173, R174): read, and cleared when asked, in one step. -/
def countersAct (body : List Byte) (s : State) : State × List Byte :=
  match countersArg body with
  | none => (s, [Result.badArgument])
  | some (g, clear) =>
    let values := s.groupValues g
    (if clear then s.clearGroup g else s,
      [Result.ok, g.code, g.number, byteOf values.length] ++ values.flatMap be32Nat)

/-- COUNTERS (R173). -/
def execCounters (s : State) : Result := s.request Kind.counters countersAct

end Sys2Proof.Machine
end

