-- ==== Sys2Proof/Machine/Resets.lean ====
section
/-! DEFINITION. The two scopes of RESET and the reset pin (sections 9.3 and 9.4). The PART reset itself stands in
ControlLink.lean, at the end of its response. -/

namespace Sys2Proof.Machine

/-! ## RESETN (R179) -/

/-- The control link bit rate the straps select; true is high (00_scope.md, "Pins"). -/
def strapRate (bsel1 bsel0 : Bool) : Nat :=
  match bsel1, bsel0 with
  | false, false => 115200
  | false, true => 460800
  | true, false => 921600
  | true, true => 3000000

/-- RESETN_ASSERT (R179): every block is held at its power-on values. The bit rate, which nothing uses while the pin is low,
keeps its value (log 9). -/
def execResetnAssert (s : State) : Result := .next (.powerOn s.pending s.lines false s.link.bitRate)

/-- RESETN_RELEASE (R179), power-on included: the straps are sampled and the part starts from its power-on values. -/
def execResetnRelease (bsel1 bsel0 : Bool) (s : State) : Result :=
  .next (.powerOn s.pending s.lines true (strapRate bsel1 bsel0))

/-! ## RESET(PART), its execution (R176) -/

/-- A RESET request whose scope is refused (R175). -/
def resetRefused (r : Frame) (s : State) : State := s.finish r [Result.badArgument]

/-- The execution of RESET(PART): its OK response is placed, and nothing further is executed or served (R169, R176). -/
def resetPartRequest (r : Frame) (s : State) : State :=
  if r.body = [0] then
    ({ s with link := { s.link with resetPending := true } } : State).finishWith .resetResponse r [Result.ok]
  else resetRefused r s

/-- RESET_PART (R176). A RESET whose scope names nothing, or of a wrong length, is refused under either row (log 21). -/
def execResetPart (s : State) : Result :=
  .next (s.withRequest (fun r => decide (r.kind = Kind.reset ∧ r.body ≠ [1])) resetPartRequest)

/-! ## RESET(STORE) (R177) -/

/-- A STORE reset at a lane (R47, R62): the assembly is discarded, its number stays consumed. -/
def Lane.storeReset (l : Lane) : Lane :=
  match l.assembly with
  | none => l
  | some _ =>
    { l with
      assembly := none
      pendingMissing := addMissing l.pendingMissing 1
      counters := { l.counters with missingTotal := bump l.counters.missingTotal } }

/-- A STORE reset at the Record Store (R21). -/
def Store.storeReset (st : Store) : Store :=
  { st with freeDescriptors := Config.descriptors, freeBlocks := Config.blocks, armed := true }

/-- A STORE reset at the Classifier (R93). -/
def Classifier.storeReset (c : Classifier) : Classifier :=
  { c with
    intake := []
    walk := none
    counters := if c.walk.isSome then { c.counters with abandoned := bump c.counters.abandoned } else c.counters }

/-- A STORE reset at a queue (R113). -/
def Queue.storeReset (x : Queue) : Queue := { x with list := [], charge := 0 }

/-- A STORE reset at a slot (R135). -/
def Slot.storeReset (x : Slot) : Slot := ⟨x.issue + 1, none⟩

/-- A STORE reset at the Notice Unit (R151). -/
def Notice.storeReset (n : Notice) : Notice := { n with levels := Vector.replicate 8 .zero }

/-- The one event that reaches every block (R177), before the lanes left with a used-up window go DOWN and credit is granted. -/
def State.storeResetBlocks (s : State) : State :=
  { s with
    lanes := mapVec Lane.storeReset s.lanes
    store := s.store.storeReset
    classifier := s.classifier.storeReset
    queues := mapVec Queue.storeReset s.queues
    slots := mapVec Slot.storeReset s.slots
    notice := s.notice.storeReset }

/-- A STORE reset (R177): the event, the closes it ends (R47), and the grants up to every ACTIVE lane's cap (R21): at most 64
credits for each of four lanes. -/
def State.storeReset (s : State) : State :=
  (allLanes.foldl (fun s n => s.checkWindow n) s.storeResetBlocks).grantMany 256

/-- The execution of RESET(STORE) (R177). -/
def resetStoreRequest (r : Frame) (s : State) : State :=
  if r.body = [1] then s.storeReset.finish r [Result.ok] else resetRefused r s

/-- RESET_STORE (R177). -/
def execResetStore (s : State) : Result :=
  .next (s.withRequest (fun r => decide (r.kind = Kind.reset ∧ r.body ≠ [0])) resetStoreRequest)

end Sys2Proof.Machine
end

