-- ==== Sys2Proof/Machine/Receivers.lean ====
section
/-! DEFINITION. How characters reach the part: a receiver takes the next character of its line and, when that completes or
spoils a frame, gives the command the frame is (R27, R49, R153, R179, R183). step takes these on an empty command queue. -/

namespace Sys2Proof.Machine

/-! ## The lines as time passes (R178, R179) -/

/-- One microsecond passes on a line. A character that was due and that no receiver took is lost. -/
def elapseLine (line : List Arrival) : List Arrival :=
  match line.dropWhile fun a => decide (a.wait = 0) with
  | [] => []
  | a :: rest => { a with wait := a.wait - 1 } :: rest

/-- One microsecond passes on every line. -/
def Lines.elapse (x : Lines) : Lines := ⟨elapseLine x.control, mapVec elapseLine x.lanes⟩

namespace State

/-! ## The two kinds of receiver -/

/-- The last moment for the character after one received now on the control link: the gap timeout in force now (R153,
R157). -/
def controlGapEnd (s : State) : Nat := s.clock + 1000 * s.link.gapTimeout

/-- The last moment for the character after one received now on a lane (R27). -/
def laneGapEnd (s : State) : Nat := s.clock + Config.laneCharGap

/-- The control link receiver takes its next character (R153): the part with the character gathered or discarded, and the
command that results. One looked at again after a failed frame acts now (log 31). -/
def controlReceive (s : State) : Option (State × Option Instr) :=
  (s.link.reception.next s.controlGapEnd s.lines.control).map fun (c, r, line) =>
    let r := r.gather controlSof c
    ({ s with lines := { s.lines with control := line }, link := { s.link with reception := r } }, controlVerdict r.frame)

/-- The receiver of lane n takes its next character (R27). A payload byte goes into the record being assembled (R3, R59).
DESIGN CHOICE, unsafe (log 31): a frame found among characters looked at again takes its header decision and its verdict now, not
at the moment its characters came. -/
def laneReceive (n : LaneId) (s : State) : Option (State × Option Instr) :=
  ((s.lane n).reception.next s.laneGapEnd s.lines.lanes[n]).map fun (c, r, line) =>
    let r := r.gather laneSof c
    ({ s with
        lines := { s.lines with lanes := s.lines.lanes.set n line }
        lanes := s.lanes.set n ({ s.lane n with reception := r } : Lane).storePayload },
      laneVerdictOn n (s.lane n).receiver r.frame)

/-- The next character that a receiver takes now: the control link's first, then the lanes' in lane order (log 3); none while
RESETN is held low (R179). -/
def receive (s : State) : Option (State × Option Instr) :=
  if s.running then
    s.controlReceive <|> s.laneReceive 0 <|> s.laneReceive 1 <|> s.laneReceive 2 <|> s.laneReceive 3
  else none

/-! ## Gaps that are too long -/

/-- The gap timeout has passed inside a frame on the control link (R153). -/
def gapDue (s : State) : Option Instr := if s.link.reception.gapPassed s.clock then some .gapError else none

/-- More than 1 ms has passed inside a frame on lane n (R27). -/
def laneGapDue (s : State) (n : LaneId) : Option Instr :=
  if (s.lane n).reception.gapPassed s.clock then some (.laneCharGapExpiry n) else none

end State

end Sys2Proof.Machine
end

