-- ==== Sys2Proof/Machine/Timebase.lean ====
section
/-! DEFINITION. What the part does on its own: the event of its own that is due at this moment, and the passing of one
microsecond (R178). step takes these on an empty command queue, and between the two what the receivers have taken
(Receivers.lean).

DESIGN CHOICE (log 3): the order in which events that are due at the same moment are looked for is the model's. Any other
order is had by putting the events into the command queue. -/

namespace Sys2Proof.Machine

/-- The command that executes a request from the head of the queue (R161, R175). -/
def requestCommand (r : Frame) : Option Instr :=
  match r.kind.toNat with
  | 0x02 => some .ident
  | 0x03 => some .linkConfig
  | 0x04 => some .clearError
  | 0x10 => some .laneConfig
  | 0x11 => some .laneOpen
  | 0x12 => some .laneClose
  | 0x13 => some .laneAbort
  | 0x20 => some .ruleSet
  | 0x21 => some .ruleGet
  | 0x22 => some .defaultSet
  | 0x23 => some .rulesCommit
  | 0x24 => some .rulesRevert
  | 0x30 => some .queueConfig
  | 0x31 => some .queueGet
  | 0x32 => some .queuePurge
  | 0x40 => some .fetch
  | 0x41 => some .release
  | 0x42 => some .returnHandles
  | 0x43 => some .extend
  | 0x50 => some .noticeAck
  | 0x51 => some .noticeConfig
  | 0x58 => some .status
  | 0x59 => some .counters
  | 0x5A => some (if r.body = [1] then .resetStore else .resetPart)
  | _ => if knownKind r.kind then none else some .unknownRequest

namespace State

/-- A timer of lane n that has reached its deadline in a state it runs in (R22). -/
def laneDue (s : State) (n : LaneId) : Option Instr :=
  let l := s.lane n
  let now := s.clock
  if l.state = .probing ∧ expired l.timers.probeInterval now = true then some (.probeIntervalExpiry n)
  else if l.state = .probing ∧ expired l.timers.probeWindow now = true then some (.probeWindowExpiry n)
  else if l.inSession = true ∧ expired l.timers.silence now = true then some (.silenceExpiry n)
  else if l.state = .closing ∧ expired l.timers.close now = true then some (.closeTimerExpiry n)
  else if l.state = .active ∧ expired l.timers.refresh now = true then some (.creditRefreshExpiry n)
  else none

/-- A lease that has reached its deadline (R129). -/
def leaseDue (s : State) : Option Instr :=
  (allSlots.find? fun i =>
    match (s.slot i).occupant with
    | some o => expired o.deadline s.clock
    | none => false).map .leaseExpiry

/-- A queue whose hold expiry has been reached and not yet made it due (R139). -/
def holdDue (s : State) : Option Instr :=
  (allQueues.find? fun q =>
    expired (holdDeadline (s.queue q).config s.notice.levels[q]) s.clock &&
    isDue (s.queue q).config (s.queue q).queued s.notice.levels[q] s.clock && !s.notice.levels[q].due).map .holdExpiry

/-- The renotice timer has reached its deadline (R147). -/
def renoticeDue (s : State) : Option Instr :=
  if s.notice.state = .awaitingAck ∧ expired s.notice.renotice s.clock = true then some .renoticeExpiry else none

/-- The walk in flight has lasted 5 µs (R71). -/
def walkDue (s : State) : Option Instr :=
  match s.classifier.walk with
  | some w => if w.begun + 5 ≤ s.clock then some .walkEnd else none
  | none => none

/-- The first request can begin its execution (R161). -/
def requestDue (s : State) : Option Instr := s.startable.bind requestCommand

/-- The idle transmitter can begin the notice that waits (R165). -/
def noticeDue (s : State) : Option Instr :=
  if s.link.sending = none ∧ s.link.outbound = [] ∧ s.noticeWaits = true then some .noticeBegin else none

/-- The credit allocator can grant (R12). -/
def grantDue (s : State) : Option Instr := s.grantee.map fun _ => .creditGrant

/-- The part's own event that is due now, if there is one; none while RESETN is held low (R179). -/
def ownEvent (s : State) : Option Instr :=
  if s.running then
    s.grantDue <|> s.requestDue <|> s.noticeDue <|> s.walkDue <|> s.laneDue 0 <|> s.laneDue 1 <|> s.laneDue 2 <|>
      s.laneDue 3 <|> s.leaseDue <|> s.holdDue <|> s.renoticeDue <|> s.gapDue <|> s.laneGapDue 0 <|> s.laneGapDue 1 <|>
      s.laneGapDue 2 <|> s.laneGapDue 3
  else none

/-- One microsecond passes; the Timebase does not count while RESETN is held low (R178, R179). -/
def tick (s : State) : State := { s with clock := if s.running then s.clock + 1 else s.clock, lines := s.lines.elapse }

end State

end Sys2Proof.Machine
end

