-- ==== Sys2Proof/Machine/Dispatch.lean ====
section
/-! DEFINITION. One arm per command: the command's effect on everything but the command queue. -/

namespace Sys2Proof.Machine

def exec (i : Instr) (s : State) : Host.Outcome State Fault Refusal :=
  match i with
  | .resetnAssert => Sys2Proof.Machine.execResetnAssert s
  | .resetnRelease bsel1 bsel0 => Sys2Proof.Machine.execResetnRelease bsel1 bsel0 s
  | .controlFrameReceived seq kind body => Sys2Proof.Machine.execControlFrameReceived seq kind body s
  | .linkError kind => Sys2Proof.Machine.execLinkError kind s
  | .gapError => Sys2Proof.Machine.execGapError s
  | .sync seq body => Sys2Proof.Machine.execSync seq body s
  | .ident => Sys2Proof.Machine.execIdent s
  | .linkConfig => Sys2Proof.Machine.execLinkConfig s
  | .clearError => Sys2Proof.Machine.execClearError s
  | .unknownRequest => Sys2Proof.Machine.execUnknownRequest s
  | .laneConfig => Sys2Proof.Machine.execLaneConfig s
  | .laneOpen => Sys2Proof.Machine.execLaneOpen s
  | .laneClose => Sys2Proof.Machine.execLaneClose s
  | .laneAbort => Sys2Proof.Machine.execLaneAbort s
  | .ruleSet => Sys2Proof.Machine.execRuleSet s
  | .ruleGet => Sys2Proof.Machine.execRuleGet s
  | .defaultSet => Sys2Proof.Machine.execDefaultSet s
  | .rulesCommit => Sys2Proof.Machine.execRulesCommit s
  | .rulesRevert => Sys2Proof.Machine.execRulesRevert s
  | .queueConfig => Sys2Proof.Machine.execQueueConfig s
  | .queueGet => Sys2Proof.Machine.execQueueGet s
  | .queuePurge => Sys2Proof.Machine.execQueuePurge s
  | .fetch => Sys2Proof.Machine.execFetch s
  | .release => Sys2Proof.Machine.execRelease s
  | .returnHandles => Sys2Proof.Machine.execReturnHandles s
  | .extend => Sys2Proof.Machine.execExtend s
  | .noticeAck => Sys2Proof.Machine.execNoticeAck s
  | .noticeConfig => Sys2Proof.Machine.execNoticeConfig s
  | .status => Sys2Proof.Machine.execStatus s
  | .counters => Sys2Proof.Machine.execCounters s
  | .resetPart => Sys2Proof.Machine.execResetPart s
  | .partResetEffect => Sys2Proof.Machine.execPartResetEffect s
  | .resetStore => Sys2Proof.Machine.execResetStore s
  | .controlFrameSent => Sys2Proof.Machine.execControlFrameSent s
  | .noticeBegin => Sys2Proof.Machine.execNoticeBegin s
  | .renoticeExpiry => Sys2Proof.Machine.execRenoticeExpiry s
  | .holdExpiry q => Sys2Proof.Machine.execHoldExpiry q s
  | .laneBadFrame n => Sys2Proof.Machine.execLaneBadFrame n s
  | .laneCharGapExpiry n => Sys2Proof.Machine.execLaneCharGapExpiry n s
  | .echo n index pattern next => Sys2Proof.Machine.execEcho n index pattern next s
  | .probeIntervalExpiry n => Sys2Proof.Machine.execProbeIntervalExpiry n s
  | .probeWindowExpiry n => Sys2Proof.Machine.execProbeWindowExpiry n s
  | .laneFrameSent n => Sys2Proof.Machine.execLaneFrameSent n s
  | .recordHeader n length seqByte h check => Sys2Proof.Machine.execRecordHeader n length seqByte h check s
  | .recordEnd n rest crc => Sys2Proof.Machine.execRecordEnd n rest crc s
  | .keepalive n next => Sys2Proof.Machine.execKeepalive n next s
  | .sourceClose n => Sys2Proof.Machine.execSourceClose n s
  | .closeAck n => Sys2Proof.Machine.execCloseAck n s
  | .laneProtocolError n kind body => Sys2Proof.Machine.execLaneProtocolError n kind body s
  | .silenceExpiry n => Sys2Proof.Machine.execSilenceExpiry n s
  | .closeTimerExpiry n => Sys2Proof.Machine.execCloseTimerExpiry n s
  | .creditRefreshExpiry n => Sys2Proof.Machine.execCreditRefreshExpiry n s
  | .creditGrant => Sys2Proof.Machine.execCreditGrant s
  | .walkEnd => Sys2Proof.Machine.execWalkEnd s
  | .leaseExpiry slot => Sys2Proof.Machine.execLeaseExpiry slot s

end Sys2Proof.Machine
end

