-- ==== Sys2Proof/Machine/Step.lean ====
section
/-! DEFINITION. One step: the command at the front of the queue is taken; on an empty queue the part takes its own event that
is due, or a receiver takes its next character, or one microsecond passes (DESIGN CHOICE, log 3). -/

namespace Sys2Proof.Machine

/-- One step of the part. -/
def step (s : State) : Host.Outcome State Fault Refusal :=
  match s.pending with
  | c :: rest => exec c { s with pending := rest }
  | [] =>
    match s.ownEvent with
    | some c => exec c s
    | none =>
      match s.receive with
      | some (t, some c) => exec c t
      | some (t, none) => .next t
      | none => .next s.tick

/-- The command a word spells, put at the front of the queue; the table spells none by bits. -/
def State.withFetchWord (s : State) (nbits w : Nat) : State :=
  match decodeTableWord nbits w with
  | some c => { s with pending := c :: s.pending }
  | none => s

end Sys2Proof.Machine
end

