-- ==== Sys2Proof/Safety.lean ====
section
/-! DEFINITION. What the statements about the part speak of: when the execution of a request begins and how it is answered, the
power-on values as the spec's tables give them, and the laws that hold between any two steps.

Every command completes, so a run of the part is safe for as long as the laws of this file hold in each of its states. -/

namespace Sys2Proof.Machine

/-! ## The execution of a request -/

/-- The execution of request r begins now (R161): it stands at the head of the request queue, with `rest` behind it. -/
abbrev Starts (s : State) (r : Frame) (rest : List Frame) : Prop :=
  s.running = true ∧ s.link.executing = none ∧ s.link.outbound.length < 8 ∧ s.link.syncWaiting = [] ∧
  s.link.resetPending = false ∧ s.link.requests = r :: rest

/-- A response frame is placed at the tail of the outbound queue; an idle transmitter begins the oldest one (R164, R165). -/
def Link.send (f : OutFrame) (k : Link) : Link :=
  match k.sending, k.outbound with
  | some _, waiting => { k with outbound := waiting ++ [f] }
  | none, [] => { k with sending := some f }
  | none, g :: waiting => { k with sending := some g, outbound := waiting ++ [f] }

/-- The execution of r ends with a response of the body given: cached among the last four, counted and placed (R161, R163,
R168). `wrap` says which kind of outbound frame the response is. -/
def Link.concludedBy (wrap : Frame → OutFrame) (r : Frame) (body : List Byte) (k : Link) : Link :=
  let f : Frame := ⟨r.seq, responseKind r.kind, body⟩
  ({ k with
     cache := (k.cache ++ [CacheEntry.mk r.seq f]).drop (k.cache.length + 1 - 4)
     counters := { k.counters with requestsExecuted := bump k.counters.requestsExecuted } } : Link).send (wrap f)

/-- The execution of r has left the request queue and ended with a response of the body given (R161). -/
def Link.answeredBy (wrap : Frame → OutFrame) (r : Frame) (body : List Byte) (k : Link) : Link :=
  ({ k with requests := k.requests.tail } : Link).concludedBy wrap r body

/-- The same, for an ordinary response. -/
def Link.answered (r : Frame) (body : List Byte) (k : Link) : Link := k.answeredBy .response r body

/-- The execution of r answers with the body given and changes nothing else of the part. -/
def State.replied (r : Frame) (body : List Byte) (s : State) : State := { s with link := s.link.answered r body }

/-- An answer made at a frame's arrival (R164): placed and counted by `count` when the outbound queue holds fewer than 8
response frames, or fewer than 7 while a request is in execution; otherwise dropped, and counted as dropped. -/
def Link.answeredAtArrival (f : Frame) (count : LinkCounters → LinkCounters) (k : Link) : Link :=
  if k.outbound.length < 7 ∨ (k.outbound.length < 8 ∧ k.executing = none) then
    ({ k with counters := count k.counters } : Link).send (.response f)
  else { k with counters := { k.counters with answersDropped := bump k.counters.answersDropped } }

/-- A good frame has arrived: the receiver hunts behind it (R153), and it is counted (R168). -/
def Link.heard (k : Link) : Link :=
  { k with
    reception := { k.reception with frame := [] }
    counters := { k.counters with goodFrames := bump k.counters.goodFrames } }

/-- The receiver after its frame has failed: hunting resumes at the character behind the start-of-frame character (R27,
R153). -/
def Reception.failed (r : Reception) : Reception := ⟨[], r.frame.drop 1 ++ r.again⟩

/-- More than the gap timeout has passed since the last character of the frame being gathered, and the receiver has no
character left to look at (R27, R153). -/
def Reception.Late (now : Nat) (r : Reception) : Prop := r.again = [] ∧ ∃ c ∈ r.frame.getLast?, c.gapEnd < now

/-- The receiver's next character is c, and `again` and `rest` are what it and its line then hold: a character it looks at
again, or else the one just received on the line, behind which the gap ends at `gapEnd` (R27, R153). -/
def NextCharacter (gapEnd : Nat) (r : Reception) (line : List Arrival) (c : LineChar) (again : List LineChar)
    (rest : List Arrival) : Prop :=
  (r.again = c :: again ∧ rest = line) ∨
  (r.again = [] ∧ again = [] ∧ ∃ a, line = a :: rest ∧ a.wait = 0 ∧ c = ⟨a.byte, a.stop, gapEnd⟩)

/-- There is no character for the receiver now. -/
def NoCharacter (r : Reception) (line : List Arrival) : Prop := r.again = [] ∧ ∀ a ∈ line.head?, a.wait ≠ 0

/-! ## The capture lanes -/

/-- A frame other than the rest of a RECORD can arrive on lane n: RESETN is high and the receiver hunts (R27, R49). -/
abbrev Hears (s : State) (n : LaneId) : Prop := s.running = true ∧ (s.lane n).receiver = .hunting

/-- A lane after a good frame: the receiver hunts behind it (R27), the consecutive bad count is 0, and in ACTIVE and CLOSING
the silence timer restarts (R29, R37). -/
def Lane.heard (now : Nat) (l : Lane) : Lane :=
  { l with
    reception := { l.reception with frame := [] }
    consecutiveBad := 0
    timers := { l.timers with
      silence := if l.inSession then some (now + 1000 * l.config.silenceTimeout) else l.timers.silence } }

/-- A lane whose session or probe exchange has ended in DOWN (R30, R38, R41, R42, R43). -/
def Lane.ended (l : Lane) : Lane :=
  { l with
    state := .down
    limit := l.e - 1
    pendingMissing := 0
    assembly := none
    timers := ⟨none, none, none, none, none⟩
    waiting := l.waiting.filter fun f => !f.isCredit && !f.isProbe }

/-- A lane that enters PROBING (R32). -/
def Lane.probing (now : Nat) (l : Lane) : Lane :=
  ({ l with
     state := .probing
     awaited := 0
     consecutiveBad := 0
     pendingMissing := 0
     timers := ⟨none, some (now + 1000 * l.config.probeWindow), none, none, none⟩ } : Lane).dueProbe 0

/-- The Record Store after the free claim on an assembly, if there is one (R15). -/
def Store.freed (r : Option Record) (st : Store) : Store :=
  match r with
  | some r => st.free r
  | none => st

/-- Lane n has ended in DOWN with the alert LANE_CLOSED (R41, R42). -/
def State.closed (n : LaneId) (s : State) : State :=
  { s with
    lanes := s.lanes.set n (s.lane n).ended
    store := s.store.freed (s.lane n).assembly
    notice := s.notice.raise .laneClosed (laneBit n) s.synced }

/-- Lane n is lost (R38). -/
def State.lost (n : LaneId) (s : State) : State :=
  { s with
    lanes := s.lanes.set n (if (s.lane n).config.autoReprobe then (s.lane n).ended.probing s.clock else (s.lane n).ended)
    store := s.store.freed (s.lane n).assembly
    notice := s.notice.raise .laneLost (laneBit n) s.synced }

/-- Lane n after a CLOSING lane with W = 0 and no assembly in progress has gone DOWN (R41). -/
def State.windowTested (n : LaneId) (s : State) : State :=
  if (s.lane n).state = .closing ∧ (s.lane n).reservation = 0 ∧ (s.lane n).assembly = none then s.closed n else s

/-- A bad frame on lane n (R27, R29): counted, hunting resumes behind its start-of-frame byte, and in a session the lane is lost when the
consecutive bad count reaches the threshold (R38). -/
def State.badFramed (n : LaneId) (s : State) : State :=
  let l := s.lane n
  let l : Lane := { l with
    consecutiveBad := min (l.consecutiveBad + 1) 255
    counters := { l.counters with framesBad := bump l.counters.framesBad }
    receiver := .hunting
    reception := l.reception.failed }
  let t := { s with lanes := s.lanes.set n l }
  if l.inSession = true ∧ l.config.errorBurst ≤ l.consecutiveBad then t.lost n else t

/-- Lane l is gathering the RECORD frame whose bytes behind the start-of-frame byte are given: as its characters came, or, for
a frame that a command brought whole, as characters received now (log 29). -/
def Lane.gathered (bytes : List Byte) (now : Nat) (l : Lane) : Lane :=
  if l.reception.frame.map LineChar.byte = 0x9E :: bytes then l
  else { l with reception := { l.reception with frame := (0x9E :: bytes).map fun b => ⟨b, true, now + 1000⟩ } }

/-- Lane l with every payload byte it has received written into the record it assembles (R3, R5, R59): inside a RECORD frame
whose header decision came after `covered`, the `remaining` bytes behind those are the payload. -/
def Lane.payloadStored (l : Lane) : Lane :=
  match l.receiver, l.assembly with
  | .record covered remaining _, some r =>
    { l with assembly := some { r with
        payload := ((l.reception.frame.drop (covered.length + 1)).take remaining).map LineChar.byte } }
  | _, _ => l

/-! ## SYNC (R149, R166) -/

/-- SYNC is taken with no request in execution (R166, R149), or, for want of room for its answer, it is not (R164). -/
def State.syncTaken (seq : Byte) (s : State) : State :=
  if 8 ≤ s.link.outbound.length then
    { s with link := { s.link with counters := { s.link.counters with answersDropped := bump s.link.counters.answersDropped } } }
  else
    let state : LinkState := if s.link.state = .unsynced then .opened else s.link.state
    let n : Notice := { s.notice with
      state := .quiet
      snapshot := none
      renotice := none
      dirty := false
      levels := eachQueue fun q =>
        let since := if 0 < (s.queue q).queued then some s.clock else none
        ⟨0, since, isDue (s.queue q).config (s.queue q).queued ⟨0, since, false⟩ s.clock⟩ }
    { s with
      notice := { n with state := if n.wanted = true ∧ n.enabled = true then .waitingLink else .quiet }
      link := ({ s.link with requests := [], cache := [], expected := some (seq + 1), state := state } : Link).send
        (.response ⟨seq, 0x81, [0x00, state.code, flagByte s.link.errorFlag]⟩) }

/-! ## RESET(STORE) (R177) -/

/-- Lane n is CLOSING and has used its window up; a STORE reset ends it (R41, R47). -/
abbrev State.usedUp (s : State) (n : LaneId) : Prop := (s.lane n).state = .closing ∧ (s.lane n).reservation = 0

/-- A lane whose assembly a STORE reset has discarded, its number consumed (R47, R62). -/
def Lane.emptied (l : Lane) : Lane :=
  { l with
    assembly := none
    pendingMissing := if l.assembly.isSome then min (l.pendingMissing + 1) 65535 else l.pendingMissing
    counters := { l.counters with
      missingTotal := if l.assembly.isSome then bump l.counters.missingTotal else l.counters.missingTotal } }

/-- The part after the one event of RESET(STORE) and the closes it ends, before credit is granted (R21, R47, R93, R113, R135,
R151, R177). The LANE_CLOSED alerts are raised in lane order (log 27). -/
def State.emptied (s : State) : State :=
  { s with
    lanes := Vector.ofFn fun n => if s.usedUp n then (s.lane n).emptied.ended else (s.lane n).emptied
    store := { s.store with freeDescriptors := 1024, freeBlocks := 2048, armed := true }
    classifier := { s.classifier with
      intake := []
      walk := none
      counters := { s.classifier.counters with
        abandoned := if s.classifier.walk.isSome then bump s.classifier.counters.abandoned
          else s.classifier.counters.abandoned } }
    queues := Vector.ofFn fun q => { s.queue q with list := [], charge := 0 }
    slots := Vector.ofFn fun i => ⟨(s.slot i).issue + 1, none⟩
    notice := ([0, 1, 2, 3] : List LaneId).foldl
      (fun m n => if s.usedUp n then m.raise .laneClosed (laneBit n) s.synced else m)
      { s.notice with levels := Vector.replicate 8 ⟨0, none, false⟩ } }

/-- The credit allocator grants one credit after another, as CREDIT_GRANT does, until it can grant no more (R10, R12, R21). -/
inductive Grants : State → State → Prop where
  | done (s : State) : exec .creditGrant s = .next s → Grants s s
  | more (s t u : State) : exec .creditGrant s = .next t → t ≠ s → Grants t u → Grants s u

/-! ## Rules (R75, R76) -/

/-- The rules i to j of a bank are one chain (R75): all but the last are joined to the next, and the rule before i, if there is
one, is not joined to i. -/
def RuleBank.ChainAt (b : RuleBank) (i j : Fin 32) : Prop :=
  i ≤ j ∧ (∀ k : Fin 32, i ≤ k → k < j → b.rules[k].chain = true) ∧ b.rules[j].chain = false ∧
  ∀ k : Fin 32, k.val + 1 = i.val → b.rules[k].chain = false

/-- Every rule of i to j is enabled and true for the record (R76). -/
def RuleBank.ChainMatches (b : RuleBank) (r : Record) (i j : Fin 32) : Prop :=
  ∀ k : Fin 32, i ≤ k → k ≤ j → b.rules[k].enabled = true ∧ ruleTrue r b.rules[k] = true

/-! ## Power-on values (R20, R46, R92, R112, R134, R150, R169, R178) -/

/-- R46, with the defaults of R24. -/
abbrev Lane.AtPowerOn (l : Lane) : Prop :=
  l.state = .down ∧ l.awaited = 0 ∧ l.e = 0 ∧ l.limit = 65535 ∧ l.lastSent = 65535 ∧ l.pendingMissing = 0 ∧
  l.consecutiveBad = 0 ∧ l.assembly = none ∧ l.timers = ⟨none, none, none, none, none⟩ ∧ l.sending = none ∧ l.waiting = [] ∧
  l.receiver = .hunting ∧ l.reception = ⟨[], []⟩ ∧ l.counters = ⟨0, 0, 0, 0, 0, 0, 0, 0, 0, 0⟩ ∧
  l.config.creditCap = 16 ∧ l.config.creditStep = 4 ∧ l.config.silenceTimeout = 500 ∧ l.config.probeWindow = 1000 ∧
  l.config.closeTimeout = 200 ∧ l.config.errorBurst = 16 ∧ l.config.autoReprobe = false

/-- R112, with the defaults of R95. -/
abbrev Queue.AtPowerOn (q : QueueId) (x : Queue) : Prop :=
  x.config.enabled = decide (q = 0) ∧ x.config.depthLimit = 256 ∧ x.config.policy = .refuseNew ∧ x.config.priority = 0 ∧
  x.config.leaseTime = 0 ∧ x.config.expiryAction = .requeue ∧ x.config.redeliveryLimit = 3 ∧ x.config.spillQueue = none ∧
  x.config.noticeThreshold = 1 ∧ x.config.noticeHold = 0 ∧ x.list = [] ∧ x.charge = 0 ∧ x.admissionCounter = 0 ∧
  x.counters = ⟨0, 0, 0, 0, 0, 0, 0, 0, 0, 0, 0, 0, 0, 0⟩

/-- R92. -/
abbrev RuleBank.AtPowerOn (b : RuleBank) : Prop :=
  (∀ i : Fin 32, b.rules[i] = ⟨false, false, 0, 0, 0, 0, 0, 0, 0, 0⟩) ∧ b.defaultAction = 1 ∧ b.defaultQueue = 0

/-- R20, R46, R92, R112, R134, R150, R169 and R178; the control link bit rate is not among them. -/
def AtPowerOn (s : State) : Prop :=
  s.clock = 0 ∧
  (∀ n, (s.lane n).AtPowerOn) ∧
  (s.store.freeDescriptors = 1024 ∧ s.store.freeBlocks = 2048 ∧ s.store.pointer = 0 ∧ s.store.armed = true ∧
    s.store.watermark = 64 ∧ s.reserved = 0) ∧
  (s.classifier.intake = [] ∧ s.classifier.walk = none ∧ s.classifier.pendingCommit = false ∧
    s.classifier.staging.AtPowerOn ∧ s.classifier.active.AtPowerOn ∧ s.classifier.generation = 0 ∧
    (∀ i : Fin 32, s.classifier.matches_[i] = 0) ∧ s.classifier.counters = ⟨0, 0, 0, 0, 0, 0⟩) ∧
  (∀ q, (s.queue q).AtPowerOn q) ∧
  (∀ i, s.slot i = ⟨0, none⟩) ∧ s.outstanding = 0 ∧
  (s.notice.alerts = [⟨.restarted, 1, 0⟩] ∧ s.notice.state = .quiet ∧ s.notice.tag = 0 ∧ s.notice.snapshot = none ∧
    s.notice.dirty = false ∧ s.notice.renotice = none ∧ (∀ q : QueueId, s.notice.levels[q] = ⟨0, none, false⟩) ∧
    s.notice.enabled = true ∧ s.notice.interval = 1000) ∧
  (s.link.state = .unsynced ∧ s.link.mode = .strict ∧ s.link.errorFlag = false ∧ s.link.gapTimeout = 5 ∧
    s.link.expected = none ∧ s.link.requests = [] ∧ s.link.executing = none ∧ s.link.syncWaiting = [] ∧ s.link.cache = [] ∧
    s.link.outbound = [] ∧ s.link.sending = none ∧ s.link.resetPending = false ∧ s.link.reception = ⟨[], []⟩ ∧
    s.link.counters = ⟨0, 0, 0, 0, 0, 0, 0, 0, 0, 0, 0, 0⟩)

/-! ## The laws between any two steps -/

/-- A lane's reservation never exceeds its cap, and it is 0 outside a session (R7, R22, R24). -/
abbrev Lane.CreditLaw (l : Lane) : Prop :=
  1 ≤ l.config.creditCap ∧ l.config.creditCap ≤ 64 ∧
  (l.inSession = true → l.reservation ≤ l.config.creditCap) ∧ (l.inSession = false → l.reservation = 0)

/-- R7 and R9: R ≤ F and 4 × R ≤ B. -/
def CreditLaw (s : State) : Prop :=
  (∀ n, (s.lane n).CreditLaw) ∧ s.reserved ≤ s.store.freeDescriptors ∧ 4 * s.reserved ≤ s.store.freeBlocks

/-- The records some block holds, each once: ASSEMBLING, INTAKE, QUEUED and OUTSTANDING (R2). -/
def heldRecords (s : State) : List Record :=
  allLanes.flatMap (fun n => (s.lane n).assembly.toList) ++ s.classifier.intake ++
  (s.classifier.walk.map Walk.record).toList ++ allQueues.flatMap (fun q => (s.queue q).list) ++
  allSlots.flatMap fun i => ((s.slot i).occupant.map Occupant.record).toList

/-- The free counts and the held records account for the whole store (R1, R2), and a lane that assembles is inside that
frame. The store-low state agrees with F: ARMED, F is at or above the watermark; DISARMED, below the rearm level (R17). -/
def MemoryLaw (s : State) : Prop :=
  s.store.freeDescriptors + (heldRecords s).length = 1024 ∧
  s.store.freeBlocks + ((heldRecords s).map Record.blocks).sum = 2048 ∧
  (∀ n, (s.lane n).receiver = .hunting → (s.lane n).assembly = none) ∧
  s.store.watermark ≤ 1023 ∧ (s.store.armed = true → s.store.watermark ≤ s.store.freeDescriptors) ∧
  (s.store.armed = false → s.store.freeDescriptors < min (s.store.watermark + 32) 1024)

/-- The OCCUPIED slots whose source queue is q (R96, R114). -/
def outstandingFrom (s : State) (q : QueueId) : Nat :=
  (allSlots.filter fun i =>
    match (s.slot i).occupant with
    | some o => decide (o.source = q)
    | none => false).length

/-- R96 and R95: the charge is the records queued and outstanding, at most the depth limit, and 0 in a disabled queue. -/
def ChargeLaw (s : State) : Prop :=
  ∀ q, (s.queue q).charge = (s.queue q).queued + outstandingFrom s q ∧
    (s.queue q).charge ≤ (s.queue q).config.depthLimit ∧
    ((s.queue q).config.enabled = false → (s.queue q).charge = 0)

/-- The age of a record in queue q (R98). -/
def State.ageIn (s : State) (q : QueueId) (r : Record) : Nat := ((s.queue q).admissionCounter - r.admission.getD 0).toNat

/-- The records QUEUED in q and those OUTSTANDING from it. -/
def State.recordsOf (s : State) (q : QueueId) : List Record :=
  (s.queue q).list ++ allSlots.flatMap fun i =>
    match (s.slot i).occupant with
    | some o => if o.source = q then [o.record] else []
    | none => []

/-- R98: a queue's list stands in strictly descending age, and no two records of the queue, queued or outstanding, have the
same admission number. -/
def OrderLaw (s : State) : Prop :=
  ∀ q, ((s.queue q).list.Pairwise fun a b => s.ageIn q b < s.ageIn q a) ∧
    ((s.recordsOf q).map fun r => r.admission.getD 0).Nodup

/-- No record's age is within 64 of wrapping (R98): a step admits at most 32 records to a queue, one for each handle of a
RETURN. -/
def AgesBelowWrap (s : State) : Prop := ∀ q, ∀ r ∈ s.recordsOf q, s.ageIn q r + 64 < 4294967296

/-- R138: P is at most the queued count, and the unreported-since time is present exactly when the count is above P; a queue
that is due has such a count (R139). -/
def LevelLaw (s : State) : Prop :=
  ∀ q : QueueId, s.notice.levels[q].reported ≤ (s.queue q).queued ∧
    (s.notice.levels[q].since.isSome = true ↔ s.notice.levels[q].reported < (s.queue q).queued) ∧
    (s.notice.levels[q].due = true → s.notice.levels[q].reported < (s.queue q).queued)

/-- R87, R88 and R89: the active bank is valid; a commit is pending exactly while its request is in execution, a walk is then
in flight and the staging bank is valid. -/
def RulesLaw (s : State) : Prop :=
  s.classifier.active.valid = true ∧ s.classifier.pendingCommit = s.link.executing.isSome ∧
  (s.classifier.pendingCommit = true → s.classifier.walk.isSome = true ∧ s.classifier.staging.valid = true)

/-- The k sequence numbers that precede x, oldest first. -/
def numbersBefore (x : Byte) : Nat → List Byte
  | 0 => []
  | k + 1 => numbersBefore (x - 1) k ++ [x - 1]

/-- The sequence numbers in the reply cache, in execution and in the request queue (R158). -/
def Link.numbers (k : Link) : List Byte :=
  k.cache.map CacheEntry.seq ++ k.executing.toList.map Frame.seq ++ k.requests.map Frame.seq

/-- Every outbound frame: the one being sent, then those that wait. -/
def Link.outgoing (k : Link) : List OutFrame := k.sending.toList ++ k.outbound

/-- The response to RESET(PART). -/
def OutFrame.isReset : OutFrame → Bool
  | .resetResponse _ => true
  | .response _ | .notice _ => false

/-- R155, R158, R159, R161, R163, R164, R166 and R176: the sizes of the queues and of the cache, the sequence numbers they
hold, which SYNCs wait, and the RESET(PART) response. -/
def LinkLaw (s : State) : Prop :=
  s.link.requests.length ≤ 4 ∧ s.link.cache.length ≤ 4 ∧ s.link.outbound.length ≤ 8 ∧
  (s.link.executing.isSome = true → s.link.outbound.length ≤ 7) ∧
  (s.link.sending = none → s.link.outbound = []) ∧
  (s.link.executing = none → s.link.syncWaiting = []) ∧
  (∀ x, s.link.expected = some x → s.link.numbers = numbersBefore x s.link.numbers.length) ∧
  (s.link.expected = none → s.link.numbers = []) ∧
  (s.link.expected = none ↔ s.link.state = .unsynced) ∧
  (∀ e ∈ s.link.cache, e.frame.seq = e.seq) ∧
  s.link.resetPending = s.link.outgoing.any OutFrame.isReset ∧
  (s.link.resetPending = true → s.link.executing = none)

/-- R136, R140 and R141: the alert set holds no two entries of one kind and counts of 1 to 255; the notice state table, with
QUIET alone before the first SYNC; a notice that is wanted and allowed is requested. -/
def NoticeLaw (s : State) : Prop :=
  (s.notice.alerts.map AlertEntry.kind).Nodup ∧ (∀ a ∈ s.notice.alerts, 1 ≤ a.count ∧ a.count ≤ 255) ∧
  (s.notice.snapshot.isSome = true ↔ s.notice.state = .awaitingAck) ∧
  (s.notice.renotice.isSome = true → s.notice.state = .awaitingAck ∧ s.notice.enabled = true) ∧
  (s.notice.state = .awaitingAck → s.notice.enabled = true → s.notice.interval ≠ 0 → s.notice.renotice.isSome = true) ∧
  (s.notice.state = .waitingLink → s.notice.enabled = true) ∧ (s.notice.state ≠ .quiet → s.link.state ≠ .unsynced) ∧
  (s.notice.state = .quiet → ¬(s.notice.wanted = true ∧ s.notice.enabled = true ∧ s.link.state ≠ .unsynced))

/-- R22: each timer of a lane runs exactly in the states listed for it; the probe interval timer runs only in PROBING. -/
abbrev Lane.TimerLaw (now : Nat) (l : Lane) : Prop :=
  (l.timers.probeInterval.isSome = true → l.state = .probing) ∧
  (l.timers.probeWindow.isSome = true ↔ l.state = .probing) ∧
  (l.timers.silence.isSome = true ↔ l.inSession = true) ∧
  (l.timers.close.isSome = true ↔ l.state = .closing) ∧
  (l.timers.refresh.isSome = true ↔ l.state = .active) ∧
  (∀ d ∈ l.timers.probeInterval, now ≤ d) ∧ (∀ d ∈ l.timers.probeWindow, now ≤ d) ∧ (∀ d ∈ l.timers.silence, now ≤ d) ∧
  (∀ d ∈ l.timers.close, now ≤ d) ∧ (∀ d ∈ l.timers.refresh, now ≤ d)

/-- No moment that an event of the part waits for is passed over: the lane timers (R22), the leases (R129), the hold expiry of
a queue that is not due (R139), the renotice timer (R147), and the walk in flight, which ends at most 5 µs after it began
(R71). -/
def TimeLaw (s : State) : Prop :=
  (∀ n, (s.lane n).TimerLaw s.clock) ∧
  (∀ i, ∀ o ∈ (s.slot i).occupant, ∀ d ∈ o.deadline, s.clock ≤ d) ∧
  (∀ q : QueueId, (s.queue q).config.noticeHold ≠ 0 → s.notice.levels[q].reported < (s.queue q).queued →
    s.notice.levels[q].due = false → ∀ t ∈ s.notice.levels[q].since, s.clock ≤ t + 1000 * (s.queue q).config.noticeHold) ∧
  (s.notice.renotice.isSome = true → s.notice.state = .awaitingAck) ∧ (∀ d ∈ s.notice.renotice, s.clock ≤ d) ∧
  (∀ w ∈ s.classifier.walk, w.begun ≤ s.clock ∧ s.clock ≤ w.begun + 5) ∧
  (s.running = false → s.clock = 0)

/-- The gap after the last character a receiver holds ends at most one microsecond ago (R27, R153). -/
abbrev Reception.GapLaw (now : Nat) (r : Reception) : Prop := ∀ c ∈ (r.frame ++ r.again).getLast?, now ≤ c.gapEnd + 1

/-- A frame being gathered begins with the start-of-frame value, and every character of it has its stop bit. -/
abbrev Reception.FrameLaw (sof : Byte) (r : Reception) : Prop :=
  ∀ c ∈ r.frame.head?, c.byte = sof ∧ ∀ x ∈ r.frame, x.stop = true

/-- The frame a lane receiver is gathering has come neither to its end nor, before its header decision, to one (R27, R49). Behind its header decision it is a RECORD frame that has
fewer than `remaining` body bytes and two CRC bytes to come (R49). -/
abbrev Lane.GatherLaw (n : LaneId) (l : Lane) : Prop :=
  match l.receiver with
  | .hunting => ∀ k, laneVerdict n none (l.reception.bytes.take k) = none
  | .record covered remaining _ =>
    covered.length = 15 ∧ covered.getD 3 0 = 0x12 ∧ nat16 (covered.getD 0 0) (covered.getD 1 0) = remaining + 13 ∧
    remaining ≤ 247 ∧ ∃ more : List Byte, l.reception.bytes = covered ++ more ∧ more.length < remaining + 2

/-- R30, R64: a lane transmitter with frames waiting is sending one; at most one CREDIT waits, in ACTIVE alone, and at most one
PROBE, in PROBING alone. -/
abbrev Lane.TransmitLaw (l : Lane) : Prop :=
  (l.sending = none → l.waiting = []) ∧
  (l.waiting.filter LaneFrame.isCredit).length ≤ 1 ∧ (l.waiting.filter LaneFrame.isProbe).length ≤ 1 ∧
  (∀ f ∈ l.waiting, (f.isCredit = true → l.state = .active) ∧ (f.isProbe = true → l.state = .probing))

/-- R27, R153: every frame being gathered is one that has neither failed nor ended. R30, R64: the lane transmitters. -/
def LineLaw (s : State) : Prop :=
  (s.link.reception.FrameLaw 0xB7 ∧ receiveFrame s.link.reception.bytes = .partway ∧ s.link.reception.GapLaw s.clock) ∧
  ∀ n, (s.lane n).reception.FrameLaw 0x9E ∧ (s.lane n).GatherLaw n ∧ (s.lane n).reception.GapLaw s.clock ∧
    (s.lane n).TransmitLaw

/-- The counters are 32 bits wide and saturate (00_scope.md, "Saturating values"), and what the host and the lanes can set
lies in the ranges of R17, R23, R24, R95, R148 and R157. -/
def RangeLaw (s : State) : Prop :=
  (∀ g, ∀ v ∈ s.groupValues g, v ≤ 4294967295) ∧
  (∀ n, (s.lane n).config.inRange = true ∧ (s.lane n).pendingMissing ≤ 65535 ∧ (s.lane n).consecutiveBad ≤ 255) ∧
  (∀ q, (s.queue q).config.inRange = true ∧ (s.queue q).config.spillQueue ≠ some q) ∧
  s.store.watermark ≤ 1023 ∧ (s.notice.interval = 0 ∨ (10 ≤ s.notice.interval ∧ s.notice.interval ≤ 60000)) ∧
  1 ≤ s.link.gapTimeout ∧ s.link.gapTimeout ≤ 255

/-- The fields of a record that every state past FREE has (R3, R4, R5). -/
abbrev Record.Accepted (r : Record) : Prop :=
  r.payloadLength ≤ 240 ∧ r.deliveryCount ≤ 255 ∧ (∀ m ∈ r.missing, 1 ≤ m ∧ m ≤ 65535)

/-- A record before its hand-over (R5). -/
abbrev Record.Unclassified (r : Record) : Prop :=
  r.generation = none ∧ r.label = none ∧ r.queue = none ∧ r.admission = none ∧ r.deliveryCount = 0 ∧ r.spilled = false

/-- A record after its good end verdict (R5). -/
abbrev Record.Complete (r : Record) : Prop := r.payload.length = r.payloadLength ∧ r.arrival.isSome = true

/-- A record QUEUED in q, or OUTSTANDING from q (R5, R114). -/
abbrev Record.Classified (q : QueueId) (r : Record) : Prop :=
  r.Accepted ∧ r.Complete ∧ r.generation.isSome = true ∧ r.queue = some q ∧ r.admission.isSome = true ∧
  (∀ b ∈ r.label, 1 ≤ b.toNat ∧ b.toNat ≤ 15)

/-- R5: which fields of a record hold a value, by the state of its descriptor. -/
def FieldLaw (s : State) : Prop :=
  (∀ n, ∀ r ∈ (s.lane n).assembly, r.lane = n ∧ r.Accepted ∧ r.Unclassified ∧ r.arrival = none ∧
    ∃ covered, (s.lane n).receiver = .record covered r.payloadLength true ∧
      r.payload = ((s.lane n).reception.bytes.drop covered.length).take r.payloadLength) ∧
  (∀ r ∈ s.classifier.intake, r.Accepted ∧ r.Complete ∧ r.Unclassified) ∧
  (∀ w ∈ s.classifier.walk, w.record.Accepted ∧ w.record.Complete ∧ w.record.Unclassified) ∧
  (∀ q, ∀ r ∈ (s.queue q).list, r.Classified q) ∧
  (∀ i, ∀ o ∈ (s.slot i).occupant, o.record.Classified o.source)

end Sys2Proof.Machine
end

