-- ==== Sys2Proof/Certificates/Slice0/Obligations.lean ====
section
/-! DEFINITION. The statements about the part, for the provers. A statement gives the whole next state: what it does not name is
unchanged. Shared operations that a statement names are given by statements of their own. -/

section

open Sys2Proof Sys2Proof.Machine

/-! ## Steps -/

/-- A step takes the command at the front of the queue and runs it on the state with the queue's rest. On an empty queue the
part takes its own event that is due, or else a receiver takes its next character and the command that this gives is run, or
else one microsecond passes (the model's choice, log 3; the Timebase counts microseconds and stands still while RESETN is
low, R178, R179). -/
def Obligations.StepTakesFrontCommand : Prop :=
  (∀ (c : Instr) (rest : List Instr) (s : State), s.pending = c :: rest → step s = exec c { s with pending := rest }) ∧
  (∀ s : State, s.pending = [] →
     step s = match s.ownEvent with
       | some c => exec c s
       | none => match s.receive with
         | some (t, some c) => exec c t
         | some (t, none) => .next t
         | none => .next { s with
           clock := if s.running = true then s.clock + 1 else s.clock
           lines := s.lines.elapse })

/-- Every command completes in a next state, leaves the command queue alone, and leaves the bit rate alone unless it is the
release of RESETN (R179). That a command whose event cannot occur in the present state answers a next state, too, is the
model's choice (log 2). -/
def Obligations.EveryCommandCompletes : Prop :=
  ∀ (c : Instr) (s : State), ∃ t, exec c s = .next t ∧ t.pending = s.pending ∧
    ((∀ b1 b0, c ≠ .resetnRelease b1 b0) → t.link.bitRate = s.link.bitRate)

/-! ## Resets (R169, R175 to R179) -/

/-- R179: while RESETN is low every block is at its power-on values, no event is taken and the Timebase does not count. R179:
at the release of RESETN, power-on included, the straps select the bit rate and every block takes its power-on values. That
the clock stands at 0 while RESETN is low is read from the rule (log 9); that a release starts a part that already runs in
the same way is the model's choice (log 24), and so is what becomes of the characters still to come on the lines (log 28). -/
def Obligations.ResetnHoldsAndStartsThePart : Prop :=
  (∀ s : State,
     (∃ t, exec .resetnAssert s = .next t ∧ t.running = false ∧ AtPowerOn t) ∧
     (s.running = false → ∀ c, c ≠ .resetnAssert → (∀ b1 b0, c ≠ .resetnRelease b1 b0) → exec c s = .next s) ∧
     (s.running = false → s.pending = [] → step s = .next { s with lines := s.lines.elapse })) ∧
  (∀ (s : State) (bsel1 bsel0 : Bool),
     ∃ t, exec (.resetnRelease bsel1 bsel0) s = .next t ∧ t.running = true ∧ AtPowerOn t ∧
       t.link.bitRate = if bsel1 then (if bsel0 then 3000000 else 921600) else (if bsel0 then 460800 else 115200))

/-- The part right after reset holds its power-on values (the straps low: the model's choice, log 8), no command waits, and
every law of Safety.lean holds there. -/
def Obligations.ResetStateAtPowerOnKeepsLaws : Prop :=
  State.reset.running = true ∧ State.reset.pending = [] ∧ AtPowerOn State.reset ∧ CreditLaw State.reset ∧
  MemoryLaw State.reset ∧ ChargeLaw State.reset ∧ LevelLaw State.reset ∧ RulesLaw State.reset ∧ LinkLaw State.reset ∧
  NoticeLaw State.reset ∧ TimeLaw State.reset ∧ RangeLaw State.reset ∧ FieldLaw State.reset ∧ OrderLaw State.reset ∧
  LineLaw State.reset

/-- R175, R176: the execution of RESET(PART) answers OK and stops the link from executing anything further; a scope that
names nothing is refused under either row of RESET (log 21). R176: when the last byte of the RESET(PART) response has been
sent every block takes its power-on values; the bit rate is kept. CONTROL_FRAME_SENT on that response is the same event (log
12). R169, R176: after the execution of RESET(PART) every good frame is discarded unanswered (it is counted: log 13), and no
request begins execution: its row leaves the state as it is (log 2). -/
def Obligations.PartResetInTwoStages : Prop :=
  (∀ (s : State) (r : Frame) (rest : List Frame) (scope : Byte), Starts s r rest → r.kind = 0x5A → r.body = [scope] →
     (scope = 0 → exec .resetPart s =
       .next { s with link := ({ s.link with resetPending := true } : Link).answeredBy .resetResponse r [0x00] }) ∧
     (scope ≠ 0 → scope ≠ 1 → exec .resetPart s = .next (s.replied r [0x20]) ∧ exec .resetStore s = .next (s.replied r [0x20]))) ∧
  (∀ (s : State) (f : Frame), s.running = true → s.link.sending = some (.resetResponse f) →
     ∃ t, exec .partResetEffect s = .next t ∧ exec .controlFrameSent s = .next t ∧ t.running = true ∧ AtPowerOn t ∧
       t.link.bitRate = s.link.bitRate) ∧
  (∀ (s : State) (seq kind : Byte) (body : List Byte), s.running = true → s.link.resetPending = true →
     exec (.controlFrameReceived seq kind body) s = .next { s with link := s.link.heard } ∧
     exec (.sync seq body) s = .next { s with link := s.link.heard }) ∧
  (∀ (s : State) (r : Frame) (rest : List Frame) (c : Instr), s.link.resetPending = true → s.link.requests = r :: rest →
     requestCommand r = some c → exec c s = .next s)

/-- R177 with R21, R47, R93, R113, R135, R151 and R170: RESET(STORE) empties the store, the lists and the slots, keeps the
sessions, rules and settings, and fills every ACTIVE lane to its cap before it answers. A CLOSING lane with W = 0 goes DOWN
with LANE_CLOSED, in lane order (the model's choice, log 27); then CREDIT_GRANTs follow one another from the kept pointer
until none can be made, with the CREDIT frames they make due. -/
def Obligations.ResetStoreEmptiesTheStore : Prop :=
  ∀ (s : State) (r : Frame) (rest : List Frame), Starts s r rest → r.kind = 0x5A → r.body = [1] → CreditLaw s →
    ∃ t, exec .resetStore s = .next t ∧
      t.link = s.link.answered r [0x00] ∧ t.clock = s.clock ∧ t.running = s.running ∧ t.pending = s.pending ∧
      t.store.freeDescriptors = 1024 ∧ t.store.freeBlocks = 2048 ∧ t.store.armed = true ∧
      t.store.watermark = s.store.watermark ∧ heldRecords t = [] ∧
      (∀ q, t.queue q = { s.queue q with list := [], charge := 0 }) ∧
      (∀ i, t.slot i = ⟨(s.slot i).issue + 1, none⟩) ∧
      t.classifier = { s.classifier with
        intake := []
        walk := none
        counters := { s.classifier.counters with
          abandoned := if s.classifier.walk.isSome then bump s.classifier.counters.abandoned
            else s.classifier.counters.abandoned } } ∧
      (∀ q : QueueId, t.notice.levels[q] = ⟨0, none, false⟩) ∧
      t.notice.tag = s.notice.tag ∧ t.notice.snapshot = s.notice.snapshot ∧ t.notice.renotice = s.notice.renotice ∧
      t.notice.enabled = s.notice.enabled ∧ t.notice.interval = s.notice.interval ∧
      (∀ n,
        let l := s.lane n
        let m : Lane := { l with
          assembly := none
          pendingMissing := if l.assembly.isSome then min (l.pendingMissing + 1) 65535 else l.pendingMissing
          counters := { l.counters with
            missingTotal := if l.assembly.isSome then bump l.counters.missingTotal else l.counters.missingTotal } }
        if l.state = .active then
          (t.lane n).reservation = l.config.creditCap ∧
          ∃ limit lastSent refresh sending waiting, t.lane n = { m with
            limit := limit, lastSent := lastSent, timers := { m.timers with refresh := refresh }, sending := sending,
            waiting := waiting }
        else t.lane n = if l.state = .closing ∧ l.reservation = 0 then m.ended else m) ∧
      ((∀ n, ¬((s.lane n).state = .closing ∧ (s.lane n).reservation = 0)) →
        t.notice = { s.notice with levels := t.notice.levels }) ∧
      t.notice = s.emptied.notice ∧ ∃ v, Grants s.emptied v ∧ t = { v with link := t.link }

/-! ## The control link (R153 to R167, R183 to R187) -/

/-- R153, R183, R184: behind bytes that are no start-of-frame byte, the bytes of a frame with a body of at most 1024 bytes
are received as that frame, and hunting goes on behind it; the bytes are those of whole characters in time (log 7). R153,
R157, R183, R184: what the control link receiver makes of its next character, hunting or behind a start-of-frame character: a
framing, length or CRC error, a good frame, or nothing yet; the gap behind the character is measured against the gap timeout
in force when it arrives. R27, R49, R183 to R185: the same for a lane receiver, with the header decision of a RECORD frame.
R3, R5, R59: a payload byte that a lane receives goes into the record being assembled, which then holds the bytes received so
far. That a character without its stop bit is a framing failure alone, whatever else it completes, is the model's choice (log
30). That characters come one at a time, the control link's first and then the lanes' in lane order, is the model's choice
(log 3, log 28), and so is that characters looked at again after a failed frame give their commands when they are looked at
(log 31). A line loses what no receiver has taken when time passes. -/
def Obligations.FramedBytesReachTheReceiver : Prop :=
  (∀ (noise : List Byte) (f : Frame) (more : List Byte), (0xB7 : Byte) ∉ noise → f.body.length ≤ 1024 →
     controlCommands (noise ++ f.bytes ++ more) =
       .controlFrameReceived f.seq f.kind f.body :: controlCommands more) ∧
  (∀ (s : State) (c : LineChar) (again : List LineChar) (line : List Arrival), s.running = true →
     NextCharacter (s.clock + 1000 * s.link.gapTimeout) s.link.reception s.lines.control c again line →
     (∀ x ∈ s.link.reception.frame, x.stop = true) →
     let before := s.link.reception.frame
     let frame := if before = [] then (if c.stop = true ∧ c.byte = 0xB7 then [c] else []) else before ++ [c]
     let bytes := (frame.drop 1).map LineChar.byte
     let gives (command : Option Instr) := s.receive = some ({ s with
       lines := { s.lines with control := line }, link := { s.link with reception := ⟨frame, again⟩ } }, command)
     (before = [] → gives none) ∧
     (before ≠ [] → c.stop = false → gives (some (.linkError .framing))) ∧
     (before ≠ [] → c.stop = true → bytes.length < 2 → gives none) ∧
     (∀ l1 l0 text, c.stop = true → bytes = l1 :: l0 :: text →
       let length := nat16 l1 l0
       (length < 2 ∨ 1026 < length → gives (some (.linkError .length))) ∧
       (2 ≤ length → length ≤ 1026 → text.length < length + 2 → gives none) ∧
       (∀ seq kind body c1 c0, text = seq :: kind :: body ++ [c1, c0] → body.length + 2 = length → length ≤ 1026 →
         gives (some (
           if crc16 (l1 :: l0 :: seq :: kind :: body) ≠ c1 ++ c0 then .linkError .crc
           else if kind = 0x01 then .sync seq body
           else .controlFrameReceived seq kind body))))) ∧
  (∀ (s : State) (n : LaneId) (c : LineChar) (again : List LineChar) (line : List Arrival), s.running = true →
     NoCharacter s.link.reception s.lines.control →
     (∀ m < n, NoCharacter (s.lane m).reception s.lines.lanes[m]) →
     NextCharacter (s.clock + 1000) (s.lane n).reception s.lines.lanes[n] c again line →
     (∀ x ∈ (s.lane n).reception.frame, x.stop = true) →
     let l := s.lane n
     let before := l.reception.frame
     let frame := if before = [] then (if c.stop = true ∧ c.byte = 0x9E then [c] else []) else before ++ [c]
     let bytes := (frame.drop 1).map LineChar.byte
     let gives (command : Option Instr) := s.receive = some ({ s with
       lines := { s.lines with lanes := s.lines.lanes.set n line }
       lanes := s.lanes.set n ({ l with reception := ⟨frame, again⟩ } : Lane).payloadStored }, command)
     (before = [] → gives none) ∧
     (before ≠ [] → c.stop = false → gives (some (.laneBadFrame n))) ∧
     (before ≠ [] → c.stop = true → bytes.length < 2 → gives none) ∧
     (∀ l1 l0 text, c.stop = true → bytes = l1 :: l0 :: text →
       let length := nat16 l1 l0
       (length < 2 ∨ 260 < length → gives (some (.laneBadFrame n))) ∧
       (2 ≤ length → length ≤ 260 → text.length < length + 2 →
         ¬(l.receiver = .hunting ∧ 13 ≤ length ∧ text.length = 13 ∧ text.getD 1 0 = 0x12) → gives none) ∧
       (∀ seq h1 h0 k s1 s0 t3 t2 t1 t0 size check, l.receiver = .hunting → 13 ≤ length → length ≤ 260 →
         text = [seq, 0x12, h1, h0, k, s1, s0, t3, t2, t1, t0, size, check] →
         gives (some (.recordHeader n (l1 ++ l0) seq ⟨h1 ++ h0, k, s1 ++ s0, (t3 ++ t2) ++ (t1 ++ t0), size⟩ check))) ∧
       (∀ seq kind body c1 c0, text = seq :: kind :: body ++ [c1, c0] → body.length + 2 = length → length ≤ 260 →
         let covered := l1 :: l0 :: seq :: kind :: body
         (kind = 0x12 → gives (some (.recordEnd n
           (match l.receiver with | .hunting => covered | .record decided _ _ => covered.drop decided.length) (c1 ++ c0)))) ∧
         (kind ≠ 0x12 → crc16 covered ≠ c1 ++ c0 → gives (some (.laneBadFrame n))) ∧
         (kind ≠ 0x12 → crc16 covered = c1 ++ c0 →
           ∃ i, gives (some i) ∧ ∀ u, exec i u = exec (.laneProtocolError n kind body) u)))) ∧
  (∀ s : State, (s.running = false ∨ (NoCharacter s.link.reception s.lines.control ∧
      ∀ n : LaneId, NoCharacter (s.lane n).reception s.lines.lanes[n]) ↔ s.receive = none)) ∧
  ((∀ x : Lines, x.elapse.control = elapseLine x.control ∧ ∀ n : LaneId, x.elapse.lanes[n] = elapseLine x.lanes[n]) ∧
   elapseLine [] = [] ∧
   ∀ (a : Arrival) (rest : List Arrival),
     elapseLine (a :: rest) = if a.wait = 0 then elapseLine rest else { a with wait := a.wait - 1 } :: rest)

/-- R184: the check values of the two CRCs over the ASCII bytes "123456789". R31, R185: a PROBE carries its index and the
eight bytes of that index's pattern. -/
def Obligations.CrcCheckValuesAndProbePatterns : Prop :=
  (crc16 [0x31, 0x32, 0x33, 0x34, 0x35, 0x36, 0x37, 0x38, 0x39] = 0x29B1 ∧
   crc8 [0x31, 0x32, 0x33, 0x34, 0x35, 0x36, 0x37, 0x38, 0x39] = 0xF4) ∧
  ((LaneFrame.probe 0).body = [0, 0xA6, 0x59, 0xA6, 0x59, 0x3C, 0xC3, 0x3C, 0xC3] ∧
   (LaneFrame.probe 1).body = [1, 0x0F, 0xF0, 0x96, 0x69, 0x0F, 0xF0, 0x96, 0x69] ∧
   (LaneFrame.probe 2).body = [2, 0xE1, 0x1E, 0xD2, 0x2D, 0xB4, 0x4B, 0x78, 0x87] ∧
   (LaneFrame.probe 3).body = [3, 0x00, 0xFF, 0x55, 0xAA, 0x33, 0xCC, 0x99, 0x66] ∧
   ∀ k, (LaneFrame.probe k).kind = 0x01)

/-- R154: each link error sets the flag, raises its counter and LINK_ERROR, and halts an OPEN link in STRICT mode. R153:
hunting resumes behind the start-of-frame byte of the frame that failed; a gap error is one when more than the gap timeout
has passed since the last character of a frame. That the row of a gap error that has not happened leaves the state as it is
is log 2, and that LINK_ERROR with no frame being gathered is taken as it stands is log 29 (the model's choices). -/
def Obligations.LinkErrorIsTaken : Prop :=
  ∀ s : State, s.running = true →
    let after (c : LinkCounters) : State := { s with
      link := { s.link with
        errorFlag := true
        counters := c
        reception := s.link.reception.failed
        state := if s.link.mode = .strict ∧ s.link.state = .opened then .halted else s.link.state }
      notice := s.notice.raise .linkError 0 s.synced }
    let c := s.link.counters
    exec (.linkError .length) s = .next (after { c with lengthErrors := bump c.lengthErrors }) ∧
    exec (.linkError .framing) s = .next (after { c with framingErrors := bump c.framingErrors }) ∧
    exec (.linkError .crc) s = .next (after { c with crcErrors := bump c.crcErrors }) ∧
    (s.link.reception.Late s.clock → exec .gapError s = .next (after { c with gapErrors := bump c.gapErrors })) ∧
    (¬s.link.reception.Late s.clock → exec .gapError s = .next s)

/-- R158, R160, R163, R164: in OPEN and HALTED a good frame that is not a SYNC is classified by its sequence number. That a
cached frame still waits when an equal frame stands in the outbound queue is log 15 (DEDUCED), and that a good frame counts
as one although its answer is dropped is log 13 (DEDUCED). -/
def Obligations.FrameIsClassifiedBySequence : Prop :=
  ∀ (s : State) (f : Frame) (x : Byte), s.running = true → s.link.resetPending = false → f.kind ≠ 0x01 →
    s.link.state ≠ .unsynced → s.link.expected = some x →
    let k := s.link.heard
    let after : Link :=
      if f.seq = x then
        if s.link.state = .halted ∧ f.kind ≠ 0x58 ∧ f.kind ≠ 0x02 ∧ f.kind ≠ 0x04 then
          k.answeredAtArrival ⟨f.seq, responseKind f.kind, [0x13]⟩ fun c => { c with refusedAnswers := bump c.refusedAnswers }
        else if s.link.requests.length < 4 then { k with requests := s.link.requests ++ [f], expected := some (x + 1) }
        else k.answeredAtArrival ⟨f.seq, responseKind f.kind, [0x10]⟩ fun c => { c with busyAnswers := bump c.busyAnswers }
      else if f.seq ∈ s.link.requests.map Frame.seq ∨ f.seq ∈ s.link.executing.toList.map Frame.seq then k
      else match s.link.cache.find? fun e => decide (e.seq = f.seq) with
        | some e =>
          if e.frame ∈ s.link.outbound.map OutFrame.frame then k
          else k.answeredAtArrival e.frame fun c => { c with resent := bump c.resent }
        | none =>
          k.answeredAtArrival ⟨f.seq, responseKind f.kind, [0x11, x]⟩ fun c =>
            { c with sequenceAnswers := bump c.sequenceAnswers }
    exec (.controlFrameReceived f.seq f.kind f.body) s = .next { s with link := after }

/-- R159: in UNSYNCED a good frame that is not a SYNC is answered NOT_SYNCED, but for IDENT, which is executed at once. That
an IDENT with a body is answered BAD_LENGTH there is log 22 (DEDUCED), and that a frame whose answer is dropped still counts
as a good frame is log 13 (DEDUCED). -/
def Obligations.UnsyncedFrameIsAnswered : Prop :=
  ∀ (s : State) (f : Frame), s.running = true → s.link.resetPending = false → f.kind ≠ 0x01 → s.link.state = .unsynced →
    let after : Link :=
      if f.kind = 0x02 then
        s.link.heard.answeredAtArrival
          ⟨f.seq, 0x82, if f.body = [] then identBody s.link.bitRate else [0x15]⟩ id
      else s.link.heard.answeredAtArrival ⟨f.seq, responseKind f.kind, [0x12]⟩ fun c =>
        { c with refusedAnswers := bump c.refusedAnswers }
    exec (.controlFrameReceived f.seq f.kind f.body) s = .next { s with link := after }

/-- R166 and R149: SYNC discards the waiting requests, empties the reply cache, sets the expected sequence, opens an UNSYNCED
link, takes the Notice Unit to QUIET with every reported level 0, and answers; with a body it is refused, behind a request in
execution it waits, and without room for its answer it is not executed (R164). That a SYNC so dropped still counts as a good
frame is log 13 (DEDUCED). -/
def Obligations.SyncIsTaken : Prop :=
  ∀ (s : State) (seq : Byte) (body : List Byte), s.running = true → s.link.resetPending = false →
    exec (.controlFrameReceived seq 0x01 body) s = exec (.sync seq body) s ∧
    exec (.sync seq body) s = .next (
      let k := s.link.heard
      if body ≠ [] then
        { s with link := k.answeredAtArrival ⟨seq, 0x81, [0x15]⟩ fun c => { c with refusedAnswers := bump c.refusedAnswers } }
      else if s.link.executing ≠ none then { s with link := { k with syncWaiting := s.link.syncWaiting ++ [seq] } }
      else if 8 ≤ s.link.outbound.length then
        { s with link := { k with counters := { k.counters with answersDropped := bump k.counters.answersDropped } } }
      else
        let state : LinkState := if s.link.state = .unsynced then .opened else s.link.state
        let n : Notice := { s.notice with
          state := .quiet
          snapshot := none
          renotice := none
          dirty := false
          levels := eachQueue fun q =>
            let since := if 0 < (s.queue q).queued then some s.clock else none
            ⟨0, since, isDue (s.queue q).config (s.queue q).queued ⟨0, since, false⟩ s.clock⟩ }
        { s with
          notice := { n with state := if n.wanted = true ∧ n.enabled = true then .waitingLink else .quiet }
          link := ({ k with requests := [], cache := [], expected := some (seq + 1), state := state } : Link).send
            (.response ⟨seq, 0x81, [0x00, state.code, flagByte s.link.errorFlag]⟩) })

/-- R187: the body length of every request kind, and which kinds are requests (R162). R162: a request whose body length does
not fit its kind is answered BAD_LENGTH, and a request of unknown kind UNKNOWN_REQUEST; the refusal is cached and nothing but
the control link changes. R162, R183: the kind of a response. R161: while another request is in execution, 8 response frames
wait or a SYNC waits, no request begins its execution, and neither does one while RESETN is low (R179), after RESET(PART)
(R169) or from an empty queue: its row leaves the state as it is (log 2). -/
def Obligations.MisfitRequestIsRefused : Prop :=
  (∀ (kind : Byte) (body : List Byte), requestLength kind body =
     if kind ∈ [0x01, 0x02, 0x04, 0x23, 0x24, 0x58] then some 0
     else if kind ∈ [0x11, 0x12, 0x13, 0x31, 0x32, 0x50, 0x5A] then some 1
     else if kind ∈ [0x03, 0x21, 0x22] then some 2
     else if kind ∈ [0x40, 0x59] then some 3
     else if kind = 0x51 then some 5
     else if kind = 0x10 then some 11
     else if kind = 0x20 then some 12
     else if kind = 0x30 then some 13
     else if kind ∈ [0x41, 0x42, 0x43] then some (1 + 2 * (body.headD 0).toNat)
     else none) ∧
  (∀ (s : State) (r : Frame) (rest : List Frame) (c : Instr), Starts s r rest → requestCommand r = some c →
     requestLength r.kind r.body ≠ some r.body.length →
     exec c s = .next (s.replied r [if requestLength r.kind r.body = none then 0x14 else 0x15])) ∧
  (∀ kind : Byte, responseKind kind = if kind ||| 0x80 = 0xE0 then 0xFF else kind ||| 0x80) ∧
  (∀ (s : State) (r : Frame) (c : Instr), requestCommand r = some c →
     s.running = false ∨ s.link.executing ≠ none ∨ 8 ≤ s.link.outbound.length ∨ s.link.syncWaiting ≠ [] ∨
       s.link.resetPending = true ∨ s.link.requests = [] →
     exec c s = .next s)

/-- R165, R142: the transmitter that has finished a frame begins the oldest waiting response, or else the notice that waits.
R142, R165, R191: when an idle transmitter begins the notice, its tag rises, the snapshot is taken and kept, the dirty flag
is cleared, the renotice timer starts and the frame carries tag and snapshot; the bytes of its body. That the due mask is the
due state as last evaluated is log 18 (DEDUCED), and that without a notice to begin nothing happens is log 2 (the model's
choice). -/
def Obligations.TransmitterChoosesAndNoticeBegins : Prop :=
  (∀ (s : State) (f : OutFrame), s.running = true → s.link.sending = some f → f.isReset = false →
     exec .controlFrameSent s =
       match s.link.outbound with
       | g :: rest => .next { s with link := { s.link with sending := some g, outbound := rest } }
       | [] => exec .noticeBegin { s with link := { s.link with sending := none } }) ∧
  (∀ s : State, s.running = true → s.link.sending = none →
     (s.link.outbound = [] → s.notice.state = .waitingLink → s.link.resetPending = false →
       ∃ sn : Snapshot, exec .noticeBegin s = .next { s with
           notice := { s.notice with
             tag := s.notice.tag + 1
             snapshot := some sn
             dirty := false
             renotice := if s.notice.interval ≠ 0 ∧ s.notice.enabled = true then some (s.clock + 1000 * s.notice.interval)
               else none
             state := .awaitingAck }
           link := { s.link with
             sending := some (.notice ⟨s.notice.tag + 1, 0xE0, sn.body⟩)
             counters := { s.link.counters with noticesSent := bump s.link.counters.noticesSent } } } ∧
         (∀ q : QueueId, sn.counts[q] = (s.queue q).list.length ∧ sn.due[q] = s.notice.levels[q].due) ∧
         sn.outstanding = s.outstanding ∧ sn.freeDescriptors = s.store.freeDescriptors ∧
         sn.freeBlocks = s.store.freeBlocks ∧ (∀ n : LaneId, sn.lanes[n] = (s.lane n).state) ∧
         sn.errorFlag = s.link.errorFlag ∧ sn.alerts = s.notice.alerts ∧ sn.taken = s.clock) ∧
     (¬(s.link.outbound = [] ∧ s.notice.state = .waitingLink ∧ s.link.resetPending = false) →
       exec .noticeBegin s = .next s)) ∧
  (∀ sn : Snapshot, ∃ mask : Byte, (∀ q : QueueId, mask.getLsbD q.val = sn.due[q]) ∧
     sn.body = [0, 1, 2, 3, 4, 5, 6, 7].flatMap (fun q : QueueId => be16Nat sn.counts[q]) ++ [mask, byteOf sn.outstanding] ++
       be16Nat sn.freeDescriptors ++ be16Nat sn.freeBlocks ++ [0, 1, 2, 3].map (fun n : LaneId => sn.lanes[n].code) ++
       [flagByte sn.errorFlag, byteOf sn.alerts.length] ++ sn.alerts.flatMap fun a => [a.kind.code, byteOf a.count, a.subjects])

/-- R167: IDENT answers with the part's identity and changes nothing else. R157: LINK_CONFIG sets the integrity mode and the
gap timeout, or changes nothing. R156: CLEAR_ERROR clears the flag, takes a HALTED link to OPEN, and keeps the alert set and
the counters. -/
def Obligations.LinkRequestsAreExecuted : Prop :=
  (∀ (s : State) (r : Frame) (rest : List Frame), Starts s r rest → r.kind = 0x02 → r.body = [] →
     exec .ident s = .next (s.replied r
       ([0x00, 0x41, 0x57, 0x43, 0x57, 0x2D, 0x34, 0x31, 0x38, 0x00, 0x00, 0x42, 4, 8, 32, 0x04, 0x00, 0x08, 0x00, 64, 64, 4, 4]
         ++ be32Nat s.link.bitRate))) ∧
  (∀ (s : State) (r : Frame) (rest : List Frame) (mode gap : Byte), Starts s r rest → r.kind = 0x03 → r.body = [mode, gap] →
     exec .linkConfig s = .next (
       if 1 < mode.toNat ∨ gap = 0 then s.replied r [0x20]
       else { s with link := ({ s.link with
         mode := if mode = 0 then .strict else .tolerant, gapTimeout := gap.toNat } : Link).answered r [0x00] })) ∧
  (∀ (s : State) (r : Frame) (rest : List Frame), Starts s r rest → r.kind = 0x04 → r.body = [] →
     exec .clearError s = .next { s with link := ({ s.link with
       errorFlag := false, state := if s.link.state = .halted then .opened else s.link.state } : Link).answered r [0x00] })

/-! ## Lane requests (R25, R32, R39, R40, R43) -/

/-- R25: LANE_CONFIG gives every named lane all seven values, or changes nothing. -/
def Obligations.LaneConfigSetsNamedLanes : Prop :=
  ∀ (s : State) (r : Frame) (rest : List Frame) (mask cap step s1 s0 p1 p0 c1 c0 burst reprobe : Byte), Starts s r rest →
    r.kind = 0x10 → r.body = [mask, cap, step, s1, s0, p1, p0, c1, c0, burst, reprobe] →
    let c : LaneConfig :=
      ⟨cap.toNat, step.toNat, nat16 s1 s0, nat16 p1 p0, nat16 c1 c0, burst.toNat, decide (reprobe = 1)⟩
    let valid := mask ≠ 0 ∧ mask.toNat < 16 ∧ 1 ≤ c.creditCap ∧ c.creditCap ≤ 64 ∧ 1 ≤ c.creditStep ∧ c.creditStep ≤ 16 ∧
      c.creditStep ≤ c.creditCap ∧ 10 ≤ c.silenceTimeout ∧ c.silenceTimeout ≤ 60000 ∧ 100 ≤ c.probeWindow ∧
      c.probeWindow ≤ 10000 ∧ 10 ≤ c.closeTimeout ∧ c.closeTimeout ≤ 10000 ∧ 1 ≤ c.errorBurst ∧ reprobe.toNat ≤ 1
    let busy (n : LaneId) := mask.getLsbD n.val = true ∧
      ((s.lane n).state = .probing ∨ (s.lane n).state = .active ∨ (s.lane n).state = .closing)
    (¬valid → exec .laneConfig s = .next (s.replied r [0x20])) ∧
    (∀ n, valid → busy n → (∀ m < n, ¬busy m) → exec .laneConfig s = .next (s.replied r [0x21, byteOf n.val])) ∧
    (valid → (∀ n, ¬busy n) → exec .laneConfig s = .next { s.replied r [0x00] with
      lanes := Vector.ofFn fun n => if mask.getLsbD n.val = true then { s.lane n with config := c } else s.lane n })

/-- R32: LANE_OPEN takes every named lane from DOWN or FAILED to PROBING, or changes nothing. -/
def Obligations.LaneOpenEntersProbing : Prop :=
  ∀ (s : State) (r : Frame) (rest : List Frame) (mask : Byte), Starts s r rest → r.kind = 0x11 → r.body = [mask] →
    let busy (n : LaneId) := mask.getLsbD n.val = true ∧
      ((s.lane n).state = .probing ∨ (s.lane n).state = .active ∨ (s.lane n).state = .closing)
    (mask = 0 ∨ 16 ≤ mask.toNat → exec .laneOpen s = .next (s.replied r [0x20])) ∧
    (∀ n, mask ≠ 0 → mask.toNat < 16 → busy n → (∀ m < n, ¬busy m) →
      exec .laneOpen s = .next (s.replied r [0x21, byteOf n.val])) ∧
    (mask ≠ 0 → mask.toNat < 16 → (∀ n, ¬busy n) → exec .laneOpen s = .next { s.replied r [0x00] with
      lanes := Vector.ofFn fun n => if mask.getLsbD n.val = true then (s.lane n).probing s.clock else s.lane n })

/-- The lanes a mask names, lowest first, and what one action after another over a list is (R181). R39, R43, R181: LANE_CLOSE
and LANE_ABORT act on the named lanes in lane order, each judged against the state the earlier ones left, and answer OK with
one outcome for each. R39, R40, R41: what LANE_CLOSE does to one lane, by its state, and its outcome. R43: what LANE_ABORT
does to one lane, and its outcome. -/
def Obligations.LaneCloseAndAbortActPerLane : Prop :=
  (∀ mask : Byte, (maskLanes mask).Pairwise (· < ·) ∧ ∀ n : LaneId, n ∈ maskLanes mask ↔ mask.getLsbD n.val = true) ∧
  (∀ (s : State) (r : Frame) (rest : List Frame) (mask : Byte), Starts s r rest → r.body = [mask] →
     (r.kind = 0x12 → exec .laneClose s = .next (
       if mask = 0 ∨ 16 ≤ mask.toNat then s.replied r [0x20]
       else
         let out := eachItem closeLane (maskLanes mask) s
         { out.1 with link := s.link.answered r (0x00 :: out.2) })) ∧
     (r.kind = 0x13 → exec .laneAbort s = .next (
       if mask = 0 ∨ 16 ≤ mask.toNat then s.replied r [0x20]
       else
         let out := eachItem abortLane (maskLanes mask) s
         { out.1 with link := s.link.answered r (0x00 :: out.2) }))) ∧
  (∀ (one : LaneId → State → State × Byte) (n : LaneId) (rest : List LaneId) (s : State),
     eachItem one [] s = (s, []) ∧
     eachItem one (n :: rest) s =
       ((eachItem one rest (one n s).1).1, (one n s).2 :: (eachItem one rest (one n s).1).2)) ∧
  (∀ (s : State) (n : LaneId), closeLane n s =
     let l := s.lane n
     match l.state with
     | .active =>
       let c : Lane := ({ l with
         state := .closing
         lastSent := l.limit
         timers := { l.timers with refresh := none, close := some (s.clock + 1000 * l.config.closeTimeout) }
         waiting := l.waiting.filter fun f => !f.isCredit && !f.isProbe } : Lane).makeDue (.close l.limit)
       (({ s with lanes := s.lanes.set n c } : State).windowTested n, 0x00)
     | .probing => ({ s with lanes := s.lanes.set n l.ended, store := s.store.freed l.assembly }, 0x00)
     | .closing | .down | .failed => (s, 0x01)) ∧
  (∀ (s : State) (n : LaneId), abortLane n s =
     let l := s.lane n
     if l.state = .down then (s, 0x01)
     else ({ s with
       lanes := s.lanes.set n { l.ended with waiting := [] }
       store := s.store.freed l.assembly
       notice := if l.state = .active ∨ l.state = .closing then s.notice.raise .laneClosed (laneBit n) s.synced
         else s.notice }, 0x00))

/-! ## Lane sessions (R27 to R42, R63 to R67) -/

/-- R33, R34, R35: an ECHO in PROBING that matches the awaited index while the probe interval timer runs advances the
exchange or, at index 3, makes the lane ACTIVE; any other restarts the exchange. R34, R36: the expiry of the probe interval
restarts the exchange, and that of the probe window fails the lane. -/
def Obligations.ProbeExchangeAdvancesOrRestarts : Prop :=
  (∀ (s : State) (n : LaneId) (index : Byte) (pattern : List Byte) (next : Half), Hears s n → (s.lane n).state = .probing →
     pattern.length = 8 →
     let l := (s.lane n).heard s.clock
     exec (.echo n index pattern next) s = .next (
       if l.timers.probeInterval ≠ none ∧ index.toNat = l.awaited.val ∧ pattern = probePattern l.awaited then
         if l.awaited = 3 then
           { s with
             lanes := s.lanes.set n { l with
               state := .active
               e := next
               limit := next - 1
               lastSent := next - 1
               pendingMissing := 0
               timers := ⟨none, none, some (s.clock + 1000 * l.config.silenceTimeout), none, some (s.clock + 50000)⟩
               waiting := l.waiting.filter fun f => !f.isCredit && !f.isProbe }
             notice := s.notice.raise .laneUp (laneBit n) s.synced }
         else { s with lanes := s.lanes.set n (({ l with
           awaited := l.awaited + 1
           timers := { l.timers with probeInterval := none } } : Lane).dueProbe (l.awaited + 1)) }
       else { s with lanes := s.lanes.set n (({ l with
         awaited := 0
         timers := { l.timers with probeInterval := none }
         counters := { l.counters with probeRetries := bump l.counters.probeRetries } } : Lane).dueProbe 0) })) ∧
  (∀ (s : State) (n : LaneId) (d : Nat), s.running = true → (s.lane n).state = .probing → d ≤ s.clock →
     let l := s.lane n
     (l.timers.probeInterval = some d → exec (.probeIntervalExpiry n) s = .next { s with
       lanes := s.lanes.set n (({ l with
         awaited := 0
         timers := { l.timers with probeInterval := none }
         counters := { l.counters with probeRetries := bump l.counters.probeRetries } } : Lane).dueProbe 0) }) ∧
     (l.timers.probeWindow = some d → exec (.probeWindowExpiry n) s = .next { s with
       lanes := s.lanes.set n { l with
         state := .failed
         pendingMissing := 0
         timers := ⟨none, none, none, none, none⟩
         waiting := l.waiting.filter fun f => !f.isCredit && !f.isProbe }
       notice := s.notice.raise .laneFailed (laneBit n) s.synced }))

/-- R28: the frames ECHO, KEEPALIVE, CLOSE and CLOSE_ACK are taken by their kind and body, whichever row names them. R28: a
good lane frame that the lane state gives no meaning is a protocol error: a good frame, counted, and nothing else changes. A
CLOSE_ACK in DOWN is not counted. -/
def Obligations.LaneFrameTakenByKindOrProtocolError : Prop :=
  (∀ (s : State) (n : LaneId) (index : Byte) (pattern : List Byte) (next : Half),
     exec (.echo n index pattern next) s = exec (.laneProtocolError n 0x11 (index :: pattern ++ be16 next)) s ∧
     exec (.keepalive n next) s = exec (.laneProtocolError n 0x13 (be16 next)) s ∧
     exec (.sourceClose n) s = exec (.laneProtocolError n 0x03 []) s ∧
     exec (.closeAck n) s = exec (.laneProtocolError n 0x04 []) s) ∧
  (∀ (s : State) (n : LaneId) (kind : Byte) (body : List Byte), Hears s n →
     ¬(kind = 0x11 ∧ body.length = 11 ∧ (s.lane n).state = .probing) →
     ¬((kind = 0x12 ∨ (kind = 0x13 ∧ body.length = 2) ∨ (kind = 0x03 ∧ body = [])) ∧ (s.lane n).inSession = true) →
     ¬(kind = 0x04 ∧ body = [] ∧ (s.lane n).state = .closing) →
     let l := (s.lane n).heard s.clock
     exec (.laneProtocolError n kind body) s = .next { s with
       lanes := s.lanes.set n { l with
         counters := { l.counters with
           protocolErrors := if kind = 0x04 ∧ body = [] ∧ l.state = .down then l.counters.protocolErrors
             else bump l.counters.protocolErrors } } })

/-- R27, R29, R38, R61: a frame that fails its checks is a bad frame; behind an accepted header it is the bad end verdict,
which frees the record, keeps its number consumed and adds it to the pending missing count. It fails so, too, when more than
1 ms has passed since its last character; otherwise the row of that gap leaves the state as it is (log 2), and LANE_BAD_FRAME
with no frame being gathered is taken as it stands (log 29; the model's choices). -/
def Obligations.BadLaneFrameIsCounted : Prop :=
  ∀ (s : State) (n : LaneId), s.running = true →
    let l := s.lane n
    let after := match l.receiver, l.assembly with
      | .record _ _ _, some r =>
        (({ s with
          store := s.store.free r
          lanes := s.lanes.set n { l with
            assembly := none
            pendingMissing := min (l.pendingMissing + 1) 65535
            counters := { l.counters with
              crcErrors := bump l.counters.crcErrors
              missingTotal := bump l.counters.missingTotal } } } : State).badFramed n).windowTested n
      | _, _ => s.badFramed n
    exec (.laneBadFrame n) s = .next after ∧
    (l.reception.Late s.clock → exec (.laneCharGapExpiry n) s = .next after) ∧
    (¬l.reception.Late s.clock → exec (.laneCharGapExpiry n) s = .next s)

/-- R37, R38: a silence expiry in a session loses the lane: its assembly is freed, L becomes e − 1, its timers stop,
LANE_LOST is raised, and it is DOWN or, with auto-reprobe ON, PROBING. R41: CLOSE_ACK, and the expiry of the close timer,
take a CLOSING lane DOWN with LANE_CLOSED. R42: a CLOSE from the source ends the session at once: CLOSE_ACK becomes due and
the lane goes DOWN with LANE_CLOSED. -/
def Obligations.SessionsEndByLossOrClose : Prop :=
  (∀ (s : State) (n : LaneId) (d : Nat), s.running = true → (s.lane n).inSession = true →
     (s.lane n).timers.silence = some d → d ≤ s.clock → exec (.silenceExpiry n) s = .next (s.lost n)) ∧
  (∀ (s : State) (n : LaneId), s.running = true → (s.lane n).state = .closing →
     ((s.lane n).receiver = .hunting →
       exec (.closeAck n) s = .next (({ s with lanes := s.lanes.set n ((s.lane n).heard s.clock) } : State).closed n)) ∧
     (∀ d, (s.lane n).timers.close = some d → d ≤ s.clock → exec (.closeTimerExpiry n) s = .next (s.closed n))) ∧
  (∀ (s : State) (n : LaneId), Hears s n → (s.lane n).inSession = true →
     exec (.sourceClose n) s =
       .next (({ s with lanes := s.lanes.set n (((s.lane n).heard s.clock).makeDue .closeAck) } : State).closed n))

/-- R30, R64, R67: how a frame becomes due on a lane transmitter. R30, R33: when the lane transmitter finishes a frame the
next waiting one begins, and a finished PROBE starts the probe interval timer in PROBING unless a later PROBE waits (log 16).
-/
def Obligations.LaneTransmitterKeepsOrder : Prop :=
  (∀ (l : Lane) (f : LaneFrame) (k : Fin 4) (now : Nat),
     l.makeDue f = (if l.sending = none then { l with sending := some f } else { l with waiting := l.waiting ++ [f] }) ∧
     l.dueProbe k = (if ∃ i, LaneFrame.probe i ∈ l.waiting then
         { l with waiting := l.waiting.map fun g => if g.isProbe then .probe k else g }
       else l.makeDue (.probe k)) ∧
     l.dueCredit now =
       let m : Lane := { l with lastSent := l.limit, timers := { l.timers with refresh := some (now + 50000) } }
       if ∃ limit, LaneFrame.credit limit ∈ l.waiting then
         { m with waiting := l.waiting.map fun g => if g.isCredit then .credit l.limit else g }
       else m.makeDue (.credit l.limit)) ∧
  (∀ (s : State) (n : LaneId) (f : LaneFrame), s.running = true → (s.lane n).sending = some f →
     let l := s.lane n
     exec (.laneFrameSent n) s = .next { s with lanes := s.lanes.set n { l with
       sending := l.waiting.head?
       waiting := l.waiting.tail
       timers := { l.timers with probeInterval :=
         if f.isProbe = true ∧ l.state = .probing ∧ ∀ g ∈ l.waiting, g.isProbe = false then some (s.clock + 10000)
         else l.timers.probeInterval } } })

/-- R63: KEEPALIVE by its distance d from e: it advances e inside the window, is a liveness signal at or behind e, and an
overrun beyond the window. -/
def Obligations.KeepaliveMovesTheWindow : Prop :=
  ∀ (s : State) (n : LaneId) (next : Half), Hears s n → (s.lane n).inSession = true →
    let l := (s.lane n).heard s.clock
    let d := (next - l.e).toNat
    exec (.keepalive n next) s = .next (
      if d = 0 ∨ (32768 ≤ d ∧ l.reservation < d) then { s with lanes := s.lanes.set n l }
      else if d ≤ l.reservation then
        ({ s with lanes := s.lanes.set n (({ l with
          e := next
          pendingMissing := min (l.pendingMissing + d) 65535
          counters := { l.counters with missingTotal := bumpBy d l.counters.missingTotal } } : Lane).testCreditAfterE
          s.clock) } : State).windowTested n
      else { s with lanes := s.lanes.set n { l with
        counters := { l.counters with overruns := bump l.counters.overruns } } })

/-- R65, R66: when CREDIT(L) becomes due after a change of e and after a change of L. R67: the credit refresh makes CREDIT(L)
due with the lane's current L, and the timer restarts. -/
def Obligations.CreditFrameTriggers : Prop :=
  (∀ (l : Lane) (now : Nat),
     let exhausted := (l.e - l.lastSent - 1).toNat < 32768 ∧ 1 ≤ (l.limit - l.lastSent).toNat ∧
       (l.limit - l.lastSent).toNat ≤ 64
     (l.testCreditAfterE now = if l.state = .active ∧ exhausted then l.dueCredit now else l) ∧
     (l.testCreditAfterGrant now =
       if l.state = .active ∧ (l.config.creditStep ≤ (l.limit - l.lastSent).toNat ∨ exhausted) then l.dueCredit now else l)) ∧
  (∀ (s : State) (n : LaneId) (d : Nat), s.running = true → (s.lane n).state = .active →
     (s.lane n).timers.refresh = some d → d ≤ s.clock →
     exec (.creditRefreshExpiry n) s = .next { s with lanes := s.lanes.set n ((s.lane n).dueCredit s.clock) })

/-- R10, R11: a credit goes to the first eligible lane from the pointer on when there is room; otherwise nothing changes. -/
def Obligations.CreditGoesRoundRobin : Prop :=
  ∀ s : State, s.running = true →
    let room := s.reserved + 1 ≤ s.store.freeDescriptors ∧ 4 * (s.reserved + 1) ≤ s.store.freeBlocks
    let eligible (n : LaneId) := (s.lane n).state = .active ∧ (s.lane n).reservation < (s.lane n).config.creditCap
    (∀ k : Fin 4, room → eligible (s.store.pointer + k) → (∀ j < k, ¬eligible (s.store.pointer + j)) →
      let n := s.store.pointer + k
      exec .creditGrant s = .next { s with
        lanes := s.lanes.set n (({ s.lane n with limit := (s.lane n).limit + 1 } : Lane).testCreditAfterGrant s.clock)
        store := { s.store with pointer := n + 1 } }) ∧
    ((¬room ∨ ∀ n, ¬eligible n) → exec .creditGrant s = .next s)

/-! ## Record admission (R49 to R62) -/

/-- R49 to R57, R13: the header decision. A header whose check byte differs makes the frame bad at once; a malformed, overrun
or duplicate header is counted and the frame skipped; a header inside the window is accepted in order or after a gap,
consumes the numbers up to its own, takes the pending missing count and allocates. That the characters of a frame that a
command brings come at the command is the model's choice (log 29). -/
def Obligations.HeaderDecisionByCheckFormAndWindow : Prop :=
  ∀ (s : State) (n : LaneId) (length : Half) (seqByte check : Byte) (h : RecordHeader), Hears s n →
    (s.lane n).inSession = true → 13 ≤ length.toNat → length.toNat ≤ 260 →
    let l := (s.lane n).gathered (headerCovered length seqByte h check) s.clock
    let skipping : Lane := { l with receiver := .record (headerCovered length seqByte h check) (length.toNat - 13) true }
    let d := (h.seq - l.e).toNat
    let missing := min (l.pendingMissing + d) 65535
    let r : Record := ⟨n, h.channel, h.kind, h.seq, h.sourceTime, h.payloadLength.toNat,
      if missing = 0 then none else some missing, [], none, none, none, none, none, 0, false⟩
    exec (.recordHeader n length seqByte h check) s = .next (
      if check ≠ crc8 (headerBytes h) then
        ({ s with lanes := s.lanes.set n { l with
          counters := { l.counters with headerCheckErrors := bump l.counters.headerCheckErrors } } } : State).badFramed n
      else if 240 < h.payloadLength.toNat ∨ length.toNat ≠ 13 + h.payloadLength.toNat then
        { s with lanes := s.lanes.set n { skipping with
          counters := { l.counters with malformed := bump l.counters.malformed } } }
      else if d < l.reservation then
        ({ s with
          lanes := s.lanes.set n (({ skipping with
            e := h.seq + 1
            pendingMissing := 0
            assembly := some r
            counters := { l.counters with missingTotal := bumpBy d l.counters.missingTotal } } : Lane).testCreditAfterE
            s.clock)
          store := { s.store with
            freeDescriptors := s.store.freeDescriptors - 1
            freeBlocks := s.store.freeBlocks - (h.payloadLength.toNat + 63) / 64 } } : State).storeLowTest
      else if d < 32768 then
        { s with lanes := s.lanes.set n { skipping with
          counters := { l.counters with overruns := bump l.counters.overruns } } }
      else
        { s with lanes := s.lanes.set n { skipping with
          counters := { l.counters with duplicates := bump l.counters.duplicates } } })

/-- R60, R61, R62: the end verdict of a RECORD frame past its header decision. A good verdict on an accepted record stamps
its arrival and appends it to the intake list; a bad one frees it; a frame that assembles nothing is judged as a frame alone.
R49, R28: a RECORD frame too short for a header decision is malformed in a session and a protocol error outside one when it
is good, and a bad frame when it is not. R27, R28: outside a session a RECORD frame is received without any decision, and at
its end it is a protocol error or a bad frame. A complete payload is all the bytes behind the header check byte but the CRC;
that those a RECORD_END brings are stored in its step is log 6, that behind no header decision it carries all the bytes its
CRC covers is log 25, that their characters come at the command is log 29, and that a frame found among characters looked at
again arrives then is log 31 (the model's choices). -/
def Obligations.RecordFrameEndVerdicts : Prop :=
  (∀ (s : State) (n : LaneId) (rest : List Byte) (crc : Half) (covered : List Byte) (inSession : Bool), s.running = true →
     (s.lane n).receiver = .record covered rest.length inSession →
     let l := (s.lane n)
     let good := crc16 (covered ++ rest) = crc
     let heard := ({ l with receiver := .hunting } : Lane).heard s.clock
     exec (.recordEnd n rest crc) s =
       if ¬good then
         exec (.laneBadFrame n) { s with lanes := s.lanes.set n (l.gathered (covered ++ rest ++ be16 crc) s.clock) }
       else .next (match l.assembly with
         | some r =>
           ({ s with
             lanes := s.lanes.set n { heard with
               assembly := none
               counters := { l.counters with recordsAccepted := bump l.counters.recordsAccepted } }
             classifier := s.classifier.join s.clock
               { r with payload := rest, arrival := some (BitVec.ofNat 32 s.clock) } } : State).windowTested n
         | none => { s with lanes := s.lanes.set n { heard with
             counters := { l.counters with
               protocolErrors := if inSession then l.counters.protocolErrors else bump l.counters.protocolErrors } } })) ∧
  (∀ (s : State) (n : LaneId) (seqByte : Byte) (body : List Byte) (crc : Half), Hears s n → body.length < 11 →
     let covered := coveredBytes seqByte 0x12 body
     let l := (s.lane n).heard s.clock
     exec (.recordEnd n covered crc) s = .next (
       if crc16 covered ≠ crc then
         ({ s with lanes := s.lanes.set n ((s.lane n).gathered (covered ++ be16 crc) s.clock) } : State).badFramed n
       else if l.inSession then { s with lanes := s.lanes.set n { l with
         counters := { l.counters with malformed := bump l.counters.malformed } } }
       else { s with lanes := s.lanes.set n { l with
         counters := { l.counters with protocolErrors := bump l.counters.protocolErrors } } })) ∧
  (∀ (s : State) (n : LaneId) (length : Half) (seqByte check : Byte) (h : RecordHeader), Hears s n →
     (s.lane n).inSession = false → 13 ≤ length.toNat → length.toNat ≤ 260 →
     exec (.recordHeader n length seqByte h check) s = .next { s with lanes := s.lanes.set n {
       (s.lane n).gathered (headerCovered length seqByte h check) s.clock with
       receiver := .record (headerCovered length seqByte h check) (length.toNat - 13) false } })

/-! ## Classification (R70 to R91) -/

/-- R73: the quantity a rule reads, or that its field is absent. R74: the five operators, and that a rule whose field is
absent is false. -/
def Obligations.RuleTruth : Prop :=
  (∀ (r : Record) (e : RuleEntry), e.field.toNat ≤ 6 → ruleField r e =
     let k := e.offset.toNat
     if e.field = 0 then some (BitVec.ofNat 16 r.lane.val)
     else if e.field = 1 then some r.channel
     else if e.field = 2 then some (r.kind.setWidth 16)
     else if e.field = 3 then some (BitVec.ofNat 16 r.payloadLength)
     else if e.field = 4 then
       if k < r.payloadLength then some ((r.payload.getD k 0).setWidth 16) else none
     else if e.field = 5 then
       if k + 2 ≤ r.payloadLength then some (r.payload.getD k 0 ++ r.payload.getD (k + 1) 0) else none
     else some (match r.missing with | some m => BitVec.ofNat 16 m | none => 0)) ∧
  (∀ (r : Record) (e : RuleEntry), e.operator.toNat ≤ 4 → (ruleTrue r e = true ↔ ∃ x, ruleField r e = some x ∧
     let m := x &&& e.mask
     if e.operator = 0 then m = e.value
     else if e.operator = 1 then m ≠ e.value
     else if e.operator = 2 then e.value.toNat < m.toNat
     else if e.operator = 3 then m.toNat < e.value.toNat
     else m ≠ 0))

/-- R75 to R77: the first chain that matches decides with the action, queue and label of its last rule; when none matches,
the default action decides. R77, R87: in a bank that has passed validation the decision of a rule or of the default action is
DELIVER to its queue, with its label, or DISCARD; for other banks it is the model's choice (log 19). -/
def Obligations.FirstMatchingChainDecides : Prop :=
  (∀ (b : RuleBank) (r : Record),
    (∀ i j, b.ChainAt i j → b.ChainMatches r i j → (∀ i' j', b.ChainAt i' j' → j' < i → ¬b.ChainMatches r i' j') →
      b.judge r = (some j.val, decisionOf b.rules[j].action b.rules[j].queue b.rules[j].label)) ∧
    ((∀ i j, b.ChainAt i j → ¬b.ChainMatches r i j) → b.judge r = (none, decisionOf b.defaultAction b.defaultQueue 0))) ∧
  (∀ b : RuleBank, b.valid = true →
     let decided (action queue label : Byte) : Prop :=
       (action = 1 ∧ ∃ h : queue.toNat < 8, decisionOf action queue label = .deliver ⟨queue.toNat, h⟩ label) ∨
       (action = 0 ∧ decisionOf action queue label = .discard)
     (∀ i : Fin 32, decided b.rules[i].action b.rules[i].queue b.rules[i].label) ∧
     decided b.defaultAction b.defaultQueue 0)

/-- R71, R77 to R80, R70: a walk that ends while no commit is pending counts its decision, hands its record on, and the next
walk begins. R70: a record joins the tail of the intake list, and a walk begins at once when the Classifier is IDLE. -/
def Obligations.WalkEndHandsTheOutcomeOn : Prop :=
  (∀ (s : State) (w : Walk), s.running = true → s.classifier.walk = some w → s.classifier.pendingCommit = false →
     let judged := s.classifier.active.judge w.record
     let k := s.classifier.counters
     let counted := match judged.1 with
       | some i => { s.classifier with
         matches_ := s.classifier.matches_.setIfInBounds i (bump (s.classifier.matches_.getD i 0))
         counters := { k with walks := bump k.walks } }
       | none => { s.classifier with
         counters := { k with walks := bump k.walks, defaultDecisions := bump k.defaultDecisions } }
     let next : Classifier := match s.classifier.intake with
       | [] => { counted with walk := none }
       | r :: rest => { counted with intake := rest, walk := some ⟨r, s.clock⟩ }
     exec .walkEnd s = .next (match judged.2 with
       | .discard => { s with
         classifier := { next with counters := { next.counters with discards := bump k.discards } }
         store := s.store.free w.record }
       | .deliver q label =>
         if (s.queue q).config.enabled then
           let t := s.offer q false { w.record with
             generation := some s.classifier.generation, label := if label = 0 then none else some label }
           { t with classifier := { next with counters := { next.counters with handedOver := bump k.handedOver } } }
         else { s with
           classifier := { next with counters := { next.counters with noQueue := bump k.noQueue } }
           store := s.store.free w.record
           queues := s.queues.set q { s.queue q with
             counters := { (s.queue q).counters with refusedDisabled := bump (s.queue q).counters.refusedDisabled } } })) ∧
  (∀ (c : Classifier) (now : Nat) (r : Record), c.join now r =
     match c.walk, c.intake with
     | some _, intake => { c with intake := intake ++ [r] }
     | none, [] => { c with walk := some ⟨r, now⟩ }
     | none, x :: rest => { c with intake := rest ++ [r], walk := some ⟨x, now⟩ })

/-- R88, R166: a walk that ends with a commit pending hands its outcome on first; then staging becomes active, the generation
rises, the commit is answered OK with the new generation, and the SYNCs that waited for it are taken one after another. That
they are taken in the same step, each with the test for room made then, is log 14 (DEDUCED). -/
def Obligations.PendingCommitIsTakenAtWalkEnd : Prop :=
  (∀ (s : State) (seq : Byte), s.link.executing = none → s.takeSync seq = s.syncTaken seq) ∧
  ∀ (s u : State) (w : Walk) (r : Frame), s.running = true → s.classifier.walk = some w →
    s.classifier.pendingCommit = true → s.link.executing = some r →
    exec .walkEnd { s with classifier := { s.classifier with pendingCommit := false } } = .next u →
    let generation := s.classifier.generation + 1
    exec .walkEnd s = .next (s.link.syncWaiting.foldl (fun t seq => t.takeSync seq) { u with
      classifier := { u.classifier with active := s.classifier.staging, generation := generation }
      link := { ({ s.link with executing := none } : Link).concludedBy .response r (0x00 :: be16 generation) with
        syncWaiting := [] } })

/-- R82, R83, R85: the writes to the staging bank. R84, R189: RULE_GET answers the generation and the entry as it is held,
and changes nothing else. -/
def Obligations.StagingBankIsWrittenAndRead : Prop :=
  (∀ (s : State) (r : Frame) (rest : List Frame), Starts s r rest →
     (∀ index flags field offset operator m1 m0 v1 v0 action queue label : Byte, r.kind = 0x20 →
       r.body = [index, flags, field, offset, operator, m1, m0, v1, v0, action, queue, label] →
       exec .ruleSet s = .next (
         if h : index.toNat < 32 then
           if 4 ≤ flags.toNat then s.replied r [0x20]
           else { s.replied r [0x00] with classifier := { s.classifier with
             staging := { s.classifier.staging with
               rules := s.classifier.staging.rules.set index.toNat
                 ⟨flags.getLsbD 0, flags.getLsbD 1, field, offset, operator, m1 ++ m0, v1 ++ v0, action, queue, label⟩ } } }
         else s.replied r [0x20])) ∧
     (∀ action queue : Byte, r.kind = 0x22 → r.body = [action, queue] →
       exec .defaultSet s = .next { s.replied r [0x00] with classifier := { s.classifier with
         staging := { s.classifier.staging with defaultAction := action, defaultQueue := queue } } }) ∧
     (r.kind = 0x24 → r.body = [] →
       exec .rulesRevert s = .next { s.replied r [0x00] with classifier := { s.classifier with
         staging := s.classifier.active } })) ∧
  (∀ (s : State) (r : Frame) (rest : List Frame) (bank index : Byte), Starts s r rest → r.kind = 0x21 →
     r.body = [bank, index] →
     let b := if bank = 1 then s.classifier.active else s.classifier.staging
     exec .ruleGet s = .next (s.replied r (
       if 1 < bank.toNat ∨ 32 < index.toNat then [0x20]
       else 0x00 :: be16 s.classifier.generation ++
         if h : index.toNat < 32 then
           let e := b.rules[index.toNat]
           [flagByte e.enabled + 2 * flagByte e.chain, e.field, e.offset, e.operator] ++ be16 e.mask ++ be16 e.value ++
             [e.action, e.queue, e.label]
         else [0, 0, 0, 0, 0, 0, 0, 0, b.defaultAction, b.defaultQueue, 0])))

/-- R86, R87: which entries and default actions are valid, and the index INVALID_RULE carries. R86 to R89: RULES_COMMIT is
refused with the first invalid index, taken at once when the Classifier is IDLE, or left pending and in execution while a
walk is in flight. -/
def Obligations.RulesCommitIsValidatedThenTaken : Prop :=
  (∀ b : RuleBank,
     let actionOk (action queue : Byte) := (action = 1 ∧ queue.toNat ≤ 7) ∨ (action = 0 ∧ queue = 0)
     let ok (i : Fin 32) :=
       let e := b.rules[i]
       e.field.toNat ≤ 6 ∧
       (if e.field = 4 then e.offset.toNat ≤ 239 else if e.field = 5 then e.offset.toNat ≤ 238 else e.offset = 0) ∧
       e.operator.toNat ≤ 4 ∧ actionOk e.action e.queue ∧ e.label.toNat ≤ 15 ∧ ¬(i = 31 ∧ e.chain = true)
     (∀ i, ¬ok i → (∀ j < i, ok j) → b.firstInvalid = some i.val) ∧
     ((∀ i, ok i) → b.firstInvalid = if actionOk b.defaultAction b.defaultQueue then none else some 32)) ∧
  (∀ (s : State) (r : Frame) (rest : List Frame), Starts s r rest → r.kind = 0x23 → r.body = [] →
     exec .rulesCommit s = .next (
       match s.classifier.staging.firstInvalid with
       | some i => s.replied r [0x24, byteOf i]
       | none =>
         if s.classifier.walk = none then
           { s.replied r (0x00 :: be16 (s.classifier.generation + 1)) with classifier := { s.classifier with
             active := s.classifier.staging, generation := s.classifier.generation + 1, pendingCommit := false } }
         else { s with
           classifier := { s.classifier with pendingCommit := true }
           link := { s.link with requests := rest, executing := some r } }))

/-! ## Delivery queues (R95 to R108) -/

/-- R97, R99 to R101, R110: a record that reaches an enabled queue is admitted at the tail under the next admission number;
at a full queue it is refused, or admitted after the eviction of the head. -/
def Obligations.AdmissionByChargeAndPolicy : Prop :=
  ∀ (s : State) (q : QueueId) (spill : Bool) (r : Record),
    let x := s.queue q
    let number := x.admissionCounter + 1
    let admitted : Record := { r with admission := some number, queue := some q }
    let counted (c : QueueCounters) : QueueCounters :=
      if spill then { c with spilledIn := bump c.spilledIn } else { c with admitted := bump c.admitted }
    let refused := { s with
      store := s.store.free r
      queues := s.queues.set q { x with counters := { x.counters with refusedFull := bump x.counters.refusedFull } }
      notice := s.notice.raise .queueOverflow (queueBit q) s.synced }
    s.offer q spill r =
      if x.charge < x.config.depthLimit then { s with
        queues := s.queues.set q { x with
          list := x.list ++ [admitted], charge := x.charge + 1, admissionCounter := number, counters := counted x.counters }
        notice := s.notice.follow q x.config x.list.length (x.list.length + 1) s.clock s.synced }
      else if x.config.policy = .refuseNew then refused
      else match x.list with
        | [] => refused
        | head :: rest => { s with
          store := s.store.free head
          queues := s.queues.set q { x with
            list := rest ++ [admitted]
            charge := x.charge - 1 + 1
            admissionCounter := number
            counters := counted { x.counters with evicted := bump x.counters.evicted } }
          notice := ((s.notice.follow q x.config (rest.length + 1) rest.length s.clock s.synced).follow q x.config rest.length
            (rest.length + 1) s.clock s.synced).raise .queueOverflow (queueBit q) s.synced }

/-- R104, R98: a requeue puts a record behind the records of its age or older and before the younger ones, changes neither
charge nor admission counter, and keeps a list that stands in descending age in descending age. R102, R131, R132: a record
that comes back is requeued, or, once its delivery count is above the redelivery limit, spilled once into the spill queue or
dropped. -/
def Obligations.ReturnedRecordGoesByAgeOrSpills : Prop :=
  (∀ (s : State) (q : QueueId) (r : Record),
     let x := s.queue q
     let age (r : Record) := (x.admissionCounter - r.admission.getD 0).toNat
     ∃ older younger, x.list = older ++ younger ∧ (∀ y ∈ older, age r ≤ age y) ∧ (∀ y ∈ younger.head?, age y < age r) ∧
       s.requeue q r = { s with
         queues := s.queues.set q { x with
           list := older ++ r :: younger, counters := { x.counters with requeued := bump x.counters.requeued } }
         notice := s.notice.follow q x.config x.list.length (x.list.length + 1) s.clock s.synced } ∧
       (x.list.Pairwise (fun a b => age b < age a) → (∀ y ∈ x.list, age y ≠ age r) →
         (older ++ r :: younger).Pairwise fun a b => age b < age a)) ∧
  (∀ (s : State) (q : QueueId) (r : Record),
     let x := s.queue q
     let dropped := { s with
       store := s.store.free r
       queues := s.queues.set q { x with
         charge := x.charge - 1
         counters := { x.counters with droppedExhausted := bump x.counters.droppedExhausted } } }
     s.comeBack q r =
       if r.deliveryCount ≤ x.config.redeliveryLimit then s.requeue q r
       else if r.spilled then dropped
       else match x.config.spillQueue with
         | none => dropped
         | some t =>
           if (s.queue t).config.enabled then
             ({ s with queues := s.queues.set q { x with
               charge := x.charge - 1
               counters := { x.counters with spilledOut := bump x.counters.spilledOut } } } : State).offer t true
               { r with deliveryCount := 0, spilled := true }
           else dropped)

/-- R105: QUEUE_CONFIG gives a queue all ten parameters and evaluates its due state afresh, or changes nothing. -/
def Obligations.QueueConfigSetsTheParameters : Prop :=
  ∀ (s : State) (r : Frame) (rest : List Frame) (queue flags d1 d0 priority l1 l0 redelivery spill t1 t0 h1 h0 : Byte),
    Starts s r rest → r.kind = 0x30 →
    r.body = [queue, flags, d1, d0, priority, l1, l0, redelivery, spill, t1, t0, h1, h0] →
    let valid := flags.toNat ≤ 7 ∧ 1 ≤ nat16 d1 d0 ∧ nat16 d1 d0 ≤ 1024 ∧ priority.toNat ≤ 3 ∧ redelivery.toNat ≤ 15 ∧
      (spill.toNat ≤ 7 ∨ spill = 0xFF) ∧ spill ≠ queue ∧ nat16 t1 t0 ≤ 1024
    exec .queueConfig s = .next (
      if hq : queue.toNat < 8 then
        if valid then
          let q : QueueId := ⟨queue.toNat, hq⟩
          let x := s.queue q
          let c : QueueConfig := {
            enabled := flags.getLsbD 0
            depthLimit := nat16 d1 d0
            policy := if flags.getLsbD 1 then .dropOldest else .refuseNew
            priority := priority.toNat
            leaseTime := nat16 l1 l0
            expiryAction := if flags.getLsbD 2 then .drop else .requeue
            redeliveryLimit := redelivery.toNat
            spillQueue := if h : spill.toNat < 8 then some ⟨spill.toNat, h⟩ else none
            noticeThreshold := nat16 t1 t0
            noticeHold := nat16 h1 h0 }
          if (c.enabled = false ∧ x.charge ≠ 0) ∨ c.depthLimit < x.charge then s.replied r (0x21 :: be16Nat x.charge)
          else { s.replied r [0x00] with
            queues := s.queues.set q { x with config := c }
            notice := s.notice.evalDue q c x.list.length s.clock s.synced }
        else s.replied r [0x20]
      else s.replied r [0x20])

/-- R107, R187, R188: QUEUE_GET answers the queue's configuration and state, and changes nothing else. R108: QUEUE_PURGE
frees every record of a queue's list and answers their number. -/
def Obligations.QueueGetReadsAndPurgeFrees : Prop :=
  (∀ (s : State) (r : Frame) (rest : List Frame) (queue : Byte), Starts s r rest → r.kind = 0x31 → r.body = [queue] →
     exec .queueGet s = .next (s.replied r (
       if hq : queue.toNat < 8 then
         let x := s.queue ⟨queue.toNat, hq⟩
         let c := x.config
         [0x00, flagByte c.enabled + 2 * flagByte (decide (c.policy = .dropOldest)) +
           4 * flagByte (decide (c.expiryAction = .drop))] ++
         be16Nat c.depthLimit ++ [byteOf c.priority] ++ be16Nat c.leaseTime ++ [byteOf c.redeliveryLimit] ++
         [match c.spillQueue with | some t => byteOf t.val | none => 0xFF] ++ be16Nat c.noticeThreshold ++
         be16Nat c.noticeHold ++ be16Nat x.list.length ++ be16Nat x.charge ++ be32 x.admissionCounter ++
         match x.list with
         | [] => [0, 0, 0, 0, 0]
         | head :: _ => 1 :: be32 (head.admission.getD 0)
       else [0x20]))) ∧
  (∀ (s : State) (r : Frame) (rest : List Frame) (queue : Byte), Starts s r rest → r.kind = 0x32 → r.body = [queue] →
     exec .queuePurge s = .next (
       if hq : queue.toNat < 8 then
         let q : QueueId := ⟨queue.toNat, hq⟩
         let x := s.queue q
         let n := x.list.length
         { s.replied r (0x00 :: be16Nat n) with
           store := { s.store with
             freeDescriptors := s.store.freeDescriptors + n
             freeBlocks := s.store.freeBlocks + (x.list.map Record.blocks).sum
             armed := s.store.armed || decide (n ≠ 0 ∧ rearmLevel s.store.watermark ≤ s.store.freeDescriptors + n) }
           queues := s.queues.set q { x with
             list := [], charge := x.charge - n, counters := { x.counters with purged := bumpBy n x.counters.purged } }
           notice := s.notice.follow q x.config n 0 s.clock s.synced }
       else s.replied r [0x20]))

/-! ## Fetch, leases and release (R114 to R133) -/

/-- R118: FETCH naming ANY reads from the enabled, non-empty queue of best priority, the lowest-numbered among equals. R117:
how FETCH is answered: refused, empty, or with the records deliveries take from the head of one queue (R119). -/
def Obligations.FetchSettlesItsQueue : Prop :=
  (∀ s : State, (∀ q, (s.queue q).config.priority ≤ 3) →
     let candidate (q : QueueId) := (s.queue q).config.enabled = true ∧ (s.queue q).list ≠ []
     (∀ q, candidate q →
       (∀ p, candidate p → (s.queue q).config.priority < (s.queue p).config.priority ∨
         ((s.queue q).config.priority = (s.queue p).config.priority ∧ q ≤ p)) → s.bestQueue = some q) ∧
     ((∀ q, ¬candidate q) → s.bestQueue = none)) ∧
  (∀ (s : State) (r : Frame) (rest : List Frame) (queue count mode : Byte), Starts s r rest → r.kind = 0x40 →
     r.body = [queue, count, mode] →
     let named := decide (queue ≠ 0xFF)
     let target := if named then some (Fin.ofNat 8 queue.toNat) else s.bestQueue
     exec .fetch s = .next (
       if (named = true ∧ 8 ≤ queue.toNat) ∨ count = 0 ∨ 16 < count.toNat ∨ 1 < mode.toNat then s.replied r [0x20, 0]
       else match target with
         | none => s.replied r [0x01, 0]
         | some q =>
           if named = true ∧ (s.queue q).config.enabled = false then s.replied r [0x22, 0]
           else if (s.queue q).list = [] then s.replied r [0x01, 0]
           else if mode = 0 ∧ ∀ i, (s.slot i).occupant.isSome = true then s.replied r [0x23, 0]
           else
             let out := s.deliverMany (if mode = 0 then .claim else .take) q count.toNat 0
             { out.1 with link := s.link.answered r (0x00 :: byteOf out.2.length :: out.2.flatten) }))

/-- R119, R120, R121, R103: one delivery after another from the head of the list while records are left to take, an EMPTY
slot is there in CLAIM mode, and the entry at the head fits; what each mode does with the record. -/
def Obligations.DeliveriesTakeTheHead : Prop :=
  ∀ (s : State) (mode : FetchMode) (q : QueueId) (k used : Nat),
    let x := s.queue q
    s.deliverMany mode q 0 used = (s, []) ∧
    s.deliverMany mode q (k + 1) used = match x.list with
      | [] => (s, [])
      | r :: rest =>
        let size := (match mode with | .claim => 22 | .take => 20) + (if r.label.isSome then 1 else 0) +
          (if r.missing.isSome then 2 else 0) + r.payloadLength
        if 1022 < used + size then (s, [])
        else match mode with
          | .take =>
            let t := { s with
              store := s.store.free r
              queues := s.queues.set q { x with
                list := rest, charge := x.charge - 1, counters := { x.counters with taken := bump x.counters.taken } }
              notice := s.notice.follow q x.config (rest.length + 1) rest.length s.clock s.synced }
            let entry := entryBytes r (decide (1 ≤ r.deliveryCount)) none
            let more := t.deliverMany mode q k (used + entry.length)
            (more.1, entry :: more.2)
          | .claim =>
            match allSlots.find? fun i => (s.slot i).occupant.isNone with
            | none => (s, [])
            | some i =>
              let r := { r with deliveryCount := min (r.deliveryCount + 1) 255 }
              let issue := (s.slot i).issue
              let deadline := if x.config.leaseTime = 0 then none else some (s.clock + 1000 * x.config.leaseTime)
              let t := { s with
                slots := s.slots.set i ⟨issue, some ⟨r, q, deadline⟩⟩
                queues := s.queues.set q { x with
                  list := rest, counters := { x.counters with delivered := bump x.counters.delivered } }
                notice := s.notice.follow q x.config (rest.length + 1) rest.length s.clock s.synced }
              let entry := entryBytes r (decide (1 < r.deliveryCount)) (some (handleOf issue i))
              let more := t.deliverMany mode q k (used + entry.length)
              (more.1, entry :: more.2)

/-- R119: a FETCH response holds at most the records asked for, and its body at most 1024 bytes. R122, R190: the bytes of a
FETCH entry. -/
def Obligations.FetchResponseFitsItsLayout : Prop :=
  (∀ (s : State) (mode : FetchMode) (q : QueueId) (k : Nat), FieldLaw s →
     let out := s.deliverMany mode q k 0
     out.2.length ≤ k ∧ 2 + out.2.flatten.length ≤ 1024) ∧
  (∀ (r : Record) (q : QueueId) (redelivered : Bool) (handle : Option Half), r.queue = some q →
     entryBytes r redelivered handle =
       [flagByte r.missing.isSome + 2 * flagByte r.label.isSome + 4 * flagByte redelivered + 8 * flagByte r.spilled +
         16 * flagByte handle.isSome, byteOf q.val, byteOf r.lane.val, r.kind] ++
       be16 r.channel ++ be16 r.seq ++ be32 r.sourceTime ++ be32 (r.arrival.getD 0) ++ be16 (r.generation.getD 0) ++
       [byteOf r.deliveryCount, byteOf r.payloadLength] ++ (match handle with | some h => be16 h | none => []) ++
       r.label.toList ++ (match r.missing with | some m => be16Nat m | none => []) ++ r.payload)

/-- R115: handle = issue count × 64 + slot number, every value is a handle, and which handles are valid. R124: RELEASE,
RETURN and EXTEND take 1 to 32 handles in list order, each judged against the slots the earlier ones left, and answer OK with
one outcome for each; what one action after another is (R181). R116, R125, R126, R127: what RELEASE, RETURN and EXTEND do
with one handle, and its outcome. -/
def Obligations.HandlesAreSettledInOrder : Prop :=
  ((∀ (issue : BitVec 10) (i : SlotId), (handleOf issue i).toNat = issue.toNat * 64 + i.val ∧
     handleSlot (handleOf issue i) = i ∧ handleIssue (handleOf issue i) = issue) ∧
   (∀ h : Half, (handleSlot h).val = h.toNat % 64 ∧ (handleIssue h).toNat = h.toNat / 64) ∧
   ∀ (s : State) (h : Half) (o : Occupant), s.validHandle h = some o ↔
     (s.slot (handleSlot h)).occupant = some o ∧ (s.slot (handleSlot h)).issue = handleIssue h) ∧
  (∀ (s : State) (r : Frame) (rest : List Frame) (handles : List Half), Starts s r rest → handles.length ≤ 255 →
     r.body = byteOf handles.length :: handles.flatMap be16 →
     let answered (one : Half → State → State × Byte) : State :=
       if handles = [] ∨ 32 < handles.length then s.replied r [0x20]
       else
         let out := eachItem one handles s
         { out.1 with link := s.link.answered r (0x00 :: byteOf handles.length :: out.2) }
     (r.kind = 0x41 → exec .release s = .next (answered releaseHandle)) ∧
     (r.kind = 0x42 → exec .returnHandles s = .next (answered returnHandle)) ∧
     (r.kind = 0x43 → exec .extend s = .next (answered extendHandle))) ∧
  (∀ (one : Half → State → State × Byte) (h : Half) (rest : List Half) (s : State),
     eachItem one [] s = (s, []) ∧
     eachItem one (h :: rest) s =
       ((eachItem one rest (one h s).1).1, (one h s).2 :: (eachItem one rest (one h s).1).2)) ∧
  (∀ (s : State) (h : Half),
     (s.validHandle h = none → releaseHandle h s = (s, 0x06) ∧ returnHandle h s = (s, 0x06) ∧ extendHandle h s = (s, 0x06)) ∧
     ∀ o, s.validHandle h = some o →
       let i := handleSlot h
       let x := s.queue o.source
       let emptied : Vector Slot 64 := s.slots.set i ⟨(s.slot i).issue + 1, none⟩
       let lease := x.config.leaseTime
       releaseHandle h s = ({ s with
         store := s.store.free o.record
         slots := emptied
         queues := s.queues.set o.source { x with
           charge := x.charge - 1, counters := { x.counters with released := bump x.counters.released } } }, 0x02) ∧
       returnHandle h s = (({ s with
         slots := emptied
         queues := s.queues.set o.source { x with
           counters := { x.counters with returned := bump x.counters.returned } } } : State).comeBack o.source o.record, 0x03) ∧
       extendHandle h s = ({ s with slots := s.slots.set i { s.slot i with
           occupant := some { o with deadline := if lease = 0 then none else some (s.clock + 1000 * lease) } } },
         if lease = 0 then 0x05 else 0x04))

/-- R129, R133: the lease of a slot expires when the clock reaches its deadline: the slot is emptied, LEASE_EXPIRED is
raised, and the record is dropped or comes back as the source queue says. -/
def Obligations.LeaseExpiryEmptiesTheSlot : Prop :=
  ∀ (s : State) (i : SlotId) (o : Occupant) (d : Nat), s.running = true → (s.slot i).occupant = some o →
    o.deadline = some d → d ≤ s.clock →
    let x := s.queue o.source
    let t := { s with
      slots := s.slots.set i ⟨(s.slot i).issue + 1, none⟩
      queues := s.queues.set o.source { x with counters := { x.counters with expired := bump x.counters.expired } }
      notice := s.notice.raise .leaseExpired (queueBit o.source) s.synced }
    exec (.leaseExpiry i) s = .next (match x.config.expiryAction with
      | .requeue => t.comeBack o.source o.record
      | .drop => { t with
        store := s.store.free o.record
        queues := s.queues.set o.source { x with
          charge := x.charge - 1
          counters := { x.counters with
            expired := bump x.counters.expired, droppedExhausted := bump x.counters.droppedExhausted } } })

/-! ## Notices and alerts (R136 to R149), and the store's warning (R15 to R18) -/

/-- R137, R141, R143: a raise appends an entry of its kind, or counts and gathers into the one that stands; it requests a
notice in QUIET and sets the dirty flag in AWAITING_ACK when it changes the set. R15, R17: a free raises F by 1 and B by the
record's blocks and rearms the store-low state at the rearm level; an allocation that leaves F below the watermark while
ARMED raises STORE_LOW and disarms. -/
def Obligations.RaiseGathersAndStoreWarns : Prop :=
  (∀ (n : Notice) (kind : AlertKind) (subject : Byte) (synced : Bool) (before after : List AlertEntry),
     (∀ a ∈ before, a.kind ≠ kind) →
     let raised (alerts : List AlertEntry) : Notice := { n with
       alerts := alerts
       dirty := n.dirty || decide (n.state = .awaitingAck ∧ alerts ≠ n.alerts)
       state := if n.state = .quiet ∧ n.enabled = true ∧ synced = true then .waitingLink else n.state }
     (n.alerts = before → n.raise kind subject synced = raised (before ++ [⟨kind, 1, subject⟩])) ∧
     (∀ count subjects, n.alerts = before ++ ⟨kind, count, subjects⟩ :: after →
       n.raise kind subject synced = raised (before ++ ⟨kind, min (count + 1) 255, subjects ||| subject⟩ :: after))) ∧
  ((∀ (st : Store) (r : Record), st.free r = { st with
     freeDescriptors := st.freeDescriptors + 1
     freeBlocks := st.freeBlocks + (r.payloadLength + 63) / 64
     armed := st.armed || decide (min (st.watermark + 32) 1024 ≤ st.freeDescriptors + 1) }) ∧
   ∀ s : State, s.storeLowTest =
     if s.store.armed = true ∧ s.store.watermark ≠ 0 ∧ s.store.freeDescriptors < s.store.watermark then
       { s with store := { s.store with armed := false }, notice := s.notice.raise .storeLow 0 s.synced }
     else s)

/-- R138, R139, R141, R143: P and the unreported-since time follow a change of a queue's count, its due state is evaluated
afresh, and a queue that becomes due requests a notice in QUIET or, unreported, sets the dirty flag in AWAITING_ACK. -/
def Obligations.LevelFollowsTheQueuedCount : Prop :=
  ∀ (n : Notice) (q : QueueId) (c : QueueConfig) (old new now : Nat) (synced : Bool),
    let l := n.levels[q]
    let reported := if new ≤ l.reported then new else l.reported
    let since := if new ≤ l.reported then none else if old ≤ l.reported then some now else l.since
    let due := decide (reported < new ∧ ((c.noticeThreshold ≠ 0 ∧ c.noticeThreshold ≤ new - reported) ∨
      (c.noticeHold ≠ 0 ∧ ∃ t, since = some t ∧ t + 1000 * c.noticeHold ≤ now)))
    let becomes := due = true ∧ l.due = false
    n.follow q c old new now synced = { n with
      levels := n.levels.set q ⟨reported, since, due⟩
      state := if becomes ∧ n.state = .quiet ∧ n.enabled = true ∧ synced = true then .waitingLink else n.state
      dirty := n.dirty || decide (becomes ∧ n.state = .awaitingAck ∧ ¬∃ sn, n.snapshot = some sn ∧ sn.due[q] = true) }

/-- R139: when the hold expiry of a queue with unreported records is reached the queue is due. R147: the renotice forgets the
snapshot and requests a fresh notice. That one is made, too, when the interval has become 0 while the timer ran is the
model's choice (log 32). -/
def Obligations.NoticeTimersExpire : Prop :=
  (∀ (s : State) (q : QueueId) (t : Nat), s.running = true → s.notice.levels[q].since = some t →
     (s.queue q).config.noticeHold ≠ 0 → t + 1000 * (s.queue q).config.noticeHold ≤ s.clock →
     s.notice.levels[q].reported < (s.queue q).list.length →
     let n := s.notice
     let becomes := n.levels[q].due = false
     exec (.holdExpiry q) s = .next { s with notice := { n with
       levels := n.levels.set q { n.levels[q] with due := true }
       state := if becomes ∧ n.state = .quiet ∧ n.enabled = true ∧ s.link.state ≠ .unsynced then .waitingLink else n.state
       dirty := n.dirty || decide (becomes ∧ n.state = .awaitingAck ∧ ¬∃ sn, n.snapshot = some sn ∧ sn.due[q] = true) } }) ∧
  (∀ (s : State) (d : Nat), s.running = true → s.notice.state = .awaitingAck → s.notice.renotice = some d → d ≤ s.clock →
     exec .renoticeExpiry s = .next { s with notice := { s.notice with
       snapshot := none, renotice := none, state := .waitingLink } })

/-- R144 to R146: NOTICE_ACK with the current tag in AWAITING_ACK takes the reported alerts away, sets the levels of the
queues in the due mask, evaluates every due state and chooses the next notice state; any other is STALE_TAG. -/
def Obligations.NoticeAckTakesTheReportedAway : Prop :=
  ∀ (s : State) (r : Frame) (rest : List Frame) (tag : Byte), Starts s r rest → r.kind = 0x50 → r.body = [tag] →
    (∀ sn, s.notice.state = .awaitingAck → s.notice.snapshot = some sn → tag = s.notice.tag →
      let n : Notice := { s.notice with
        alerts := s.notice.alerts.filterMap fun a =>
          match sn.alerts.find? fun b => decide (b.kind = a.kind) with
          | none => some a
          | some b => if a.count - b.count = 0 then none else some { a with count := a.count - b.count }
        levels := eachQueue fun q =>
          let l := s.notice.levels[q]
          let count := (s.queue q).list.length
          let reported := if sn.due[q] then min sn.counts[q] count else l.reported
          let since := if sn.due[q] then (if reported < count then some sn.taken else none) else l.since
          ⟨reported, since, isDue (s.queue q).config count ⟨reported, since, false⟩ s.clock⟩
        snapshot := none
        renotice := none }
      exec .noticeAck s = .next { s.replied r [0x00] with notice := { n with
        state := if n.enabled = true ∧ (n.dirty = true ∨ n.wanted = true) then .waitingLink else .quiet
        dirty := false } }) ∧
    (s.notice.state ≠ .awaitingAck ∨ tag ≠ s.notice.tag → exec .noticeAck s = .next (s.replied r [0x25]))

/-- R148, R18: NOTICE_CONFIG takes its three values, tests the store-low state against the new watermark and acts on the
notice state, or changes nothing. R147: a running renotice timer keeps its deadline; that it does so when the interval
becomes 0 is the model's choice (log 32). -/
def Obligations.NoticeConfigTakesThreeValues : Prop :=
  ∀ (s : State) (r : Frame) (rest : List Frame) (enable i1 i0 w1 w0 : Byte), Starts s r rest → r.kind = 0x51 →
    r.body = [enable, i1, i0, w1, w0] →
    let interval := nat16 i1 i0
    let watermark := nat16 w1 w0
    let st := s.store
    let low := st.armed = true ∧ watermark ≠ 0 ∧ st.freeDescriptors < watermark
    let n : Notice := { s.notice with enabled := decide (enable = 1), interval := interval }
    let m := if low then n.raise .storeLow 0 s.synced else n
    exec .noticeConfig s = .next (
      if 1 < enable.toNat ∨ (interval ≠ 0 ∧ (interval < 10 ∨ 60000 < interval)) ∨ 1023 < watermark then s.replied r [0x20]
      else { s.replied r [0x00] with
        store := { st with
          watermark := watermark
          armed := if low then false else st.armed || decide (min (watermark + 32) 1024 ≤ st.freeDescriptors) }
        notice := match m.state, m.enabled with
          | .quiet, true =>
            if m.wanted = true ∧ s.link.state ≠ .unsynced then { m with state := .waitingLink } else m
          | .waitingLink, false => { m with state := .quiet }
          | .awaitingAck, false => { m with renotice := none }
          | .awaitingAck, true =>
            if m.renotice = none ∧ interval ≠ 0 then { m with renotice := some (s.clock + 1000 * interval) } else m
          | .quiet, false | .waitingLink, true => m })

/-! ## STATUS and COUNTERS (R171 to R174) -/

/-- R171, R188: STATUS answers every figure as it stands, and changes nothing else. R173, R174: COUNTERS answers every
counter of the group named and, asked to, sets them to 0 in the same step. The counters of a group in the order of R173, and
the codes of section 10.6. -/
def Obligations.StatusAndCountersReport : Prop :=
  (∀ (s : State) (r : Frame) (rest : List Frame), Starts s r rest → r.kind = 0x58 → r.body = [] →
     exec .status s = .next (s.replied r (
       [0x00, s.link.state.code, s.link.mode.code, flagByte s.link.errorFlag] ++
       [0, 1, 2, 3].flatMap (fun n : LaneId =>
         [(s.lane n).state.code] ++ be16 (s.lane n).e ++ be16 (s.lane n).limit ++ [byteOf (s.lane n).reservation]) ++
       [0, 1, 2, 3, 4, 5, 6, 7].flatMap (fun q : QueueId =>
         be16Nat (s.queue q).list.length ++ be16Nat (s.queue q).charge) ++
       [byteOf s.outstanding] ++ be16Nat s.store.freeDescriptors ++ be16Nat s.store.freeBlocks ++ be16Nat s.reserved ++
       be16 s.classifier.generation ++ [flagByte s.classifier.pendingCommit, s.notice.state.code, s.notice.tag] ++
       (byteOf s.notice.alerts.length :: s.notice.alerts.flatMap fun a => [a.kind.code, byteOf a.count, a.subjects])))) ∧
  (∀ (s : State) (r : Frame) (rest : List Frame) (group number clear : Byte), Starts s r rest → r.kind = 0x59 →
     r.body = [group, number, clear] →
     let reply (values : List Nat) : List Byte :=
       [0x00, group, number, byteOf values.length] ++ values.flatMap be32Nat
     let cleared := clear = 1
     exec .counters s = .next (
       if 1 < clear.toNat then s.replied r [0x20]
       else if h : group = 0 ∧ number.toNat < 4 then
         let n : LaneId := ⟨number.toNat, h.2⟩
         { s.replied r (reply (s.lane n).counters.values) with
           lanes := if cleared then s.lanes.set n { s.lane n with counters := .zero } else s.lanes }
       else if h : group = 1 ∧ number.toNat < 8 then
         let q : QueueId := ⟨number.toNat, h.2⟩
         { s.replied r (reply (s.queue q).counters.values) with
           queues := if cleared then s.queues.set q { s.queue q with counters := .zero } else s.queues }
       else if group = 2 ∧ number = 0 then
         { s.replied r (reply (s.classifier.matches_.toList ++ s.classifier.counters.values)) with
           classifier := if cleared then { s.classifier with matches_ := Vector.replicate 32 0, counters := .zero }
             else s.classifier }
       else if group = 3 ∧ number = 0 then
         let k : Link := { s.link with counters := if cleared then .zero else s.link.counters }
         { s with link := k.answered r (reply s.link.counters.values) }
       else s.replied r [0x20])) ∧
  ((∀ c : LaneCounters, c.values = [c.framesBad, c.protocolErrors, c.probeRetries, c.recordsAccepted, c.duplicates, c.overruns,
      c.malformed, c.headerCheckErrors, c.crcErrors, c.missingTotal]) ∧
   (∀ c : QueueCounters, c.values = [c.admitted, c.refusedFull, c.refusedDisabled, c.evicted, c.delivered, c.taken, c.released,
      c.returned, c.expired, c.requeued, c.spilledOut, c.spilledIn, c.droppedExhausted, c.purged]) ∧
   (∀ c : ClassifierCounters, c.values = [c.walks, c.defaultDecisions, c.handedOver, c.noQueue, c.discards, c.abandoned]) ∧
   (∀ c : LinkCounters, c.values = [c.goodFrames, c.lengthErrors, c.framingErrors, c.gapErrors, c.crcErrors, c.requestsExecuted,
      c.resent, c.busyAnswers, c.sequenceAnswers, c.refusedAnswers, c.answersDropped, c.noticesSent])) ∧
  [LinkState.unsynced, .opened, .halted].map LinkState.code = [0, 1, 2] ∧
  [IntegrityMode.strict, .tolerant].map IntegrityMode.code = [0, 1] ∧
  [LaneState.down, .probing, .active, .closing, .failed].map LaneState.code = [0, 1, 2, 3, 4] ∧
  [NoticeState.quiet, .waitingLink, .awaitingAck].map NoticeState.code = [0, 1, 2] ∧
  [AlertKind.restarted, .laneUp, .laneLost, .laneFailed, .laneClosed, .queueOverflow, .leaseExpired, .linkError,
    .storeLow].map AlertKind.code = [1, 2, 3, 4, 5, 6, 7, 8, 9]

/-! ## Laws that every step keeps -/

/-- R7, R9: the reservations never exceed their caps nor the free memory. -/
def Obligations.StepKeepsCreditLaw : Prop := ∀ s t, CreditLaw s → step s = .next t → CreditLaw t

/-- R1, R2: the free counts and the records held account for the whole store. The credit law says that an allocation finds
room. R17: the store-low state agrees with the free count and the watermark. -/
def Obligations.StepKeepsMemoryLaw : Prop :=
  ∀ s t, CreditLaw s → MemoryLaw s → step s = .next t → MemoryLaw t

/-- R96: the charge of a queue is the records queued in it and outstanding from it, and at most its depth limit. R98: its
list stands in strictly descending age, as long as no record's age is about to wrap. -/
def Obligations.StepKeepsChargeLaw : Prop :=
  (∀ s t, ChargeLaw s → step s = .next t → ChargeLaw t) ∧
  (∀ s t, AgesBelowWrap s → OrderLaw s → step s = .next t → OrderLaw t)

/-- R138: the reported level is at most the queued count, and the unreported-since time is present exactly above it. -/
def Obligations.StepKeepsLevelLaw : Prop := ∀ s t, LevelLaw s → step s = .next t → LevelLaw t

/-- R87, R70, R89: the active bank passes validation, and a commit is pending only in execution during a walk. -/
def Obligations.StepKeepsRulesLaw : Prop := ∀ s t, RulesLaw s → step s = .next t → RulesLaw t

/-- R158, R161, R163, R164, R166: the sizes and the sequence numbers of the control link's queues and cache. -/
def Obligations.StepKeepsLinkLaw : Prop := ∀ s t, LinkLaw s → step s = .next t → LinkLaw t

/-- R136, R140, R141: the alert set, and the notice states with what each holds. That the renotice timer may still run when
the interval has become 0 is the model's choice (log 32). -/
def Obligations.StepKeepsNoticeLaw : Prop := ∀ s t, NoticeLaw s → step s = .next t → NoticeLaw t

/-- R22, R71, R129, R139, R147: every timer runs in its states, and no deadline is passed over: those of the lanes, of the
leases, of the queues' hold expiries, of the renotice timer and of the walk. That the clock stands at 0 while RESETN is low
is log 9 (DEDUCED), and that the part's own events come before time passes is log 3 (the model's choice). -/
def Obligations.StepKeepsTimeLaw : Prop := ∀ s t, TimeLaw s → step s = .next t → TimeLaw t

/-- 00_scope.md, "Saturating values", and the parameter tables: counters and parameters stay in their ranges. -/
def Obligations.StepKeepsRangeLaw : Prop := ∀ s t, RangeLaw s → step s = .next t → RangeLaw t

/-- R5: which fields of a record hold a value, by the state of its descriptor. The rules law says that labels are 0 to 15. An
ASSEMBLING record holds the payload bytes its lane has received so far; that those of a frame that a command brings arrive
together is the model's choice (log 6). -/
def Obligations.StepKeepsFieldLaw : Prop := ∀ s t, RulesLaw s → FieldLaw s → step s = .next t → FieldLaw t

/-- R27, R49, R153: a frame that a receiver is gathering has neither failed nor ended, and the gap after its last character
is not passed over. R30, R64: a lane transmitter with frames waiting is sending one, and at most one CREDIT waits, in ACTIVE,
and at most one PROBE, in PROBING. That the part's own events come before time passes is log 3, and that characters come one
at a time and a command's at the command is logs 28 and 29 (the model's choices). -/
def Obligations.StepKeepsLineLaw : Prop := ∀ s t, LineLaw s → step s = .next t → LineLaw t

end
end

