-- ==== Sys2Proof/Laws/State.lean ====
section
/-! SUPPORT. One lemma per field per update: what each primitive update of State leaves as it was (all by rfl), and what the
accessors of lanes, queues and slots read after a write. -/

namespace Sys2Proof.Machine

/-! ## Fields an update leaves -/

namespace State

@[simp] theorem setLane_pending (s : State) (n : LaneId) (l : Lane) : (s.setLane n l).pending = s.pending := rfl
@[simp] theorem setLane_lines (s : State) (n : LaneId) (l : Lane) : (s.setLane n l).lines = s.lines := rfl
@[simp] theorem setLane_running (s : State) (n : LaneId) (l : Lane) : (s.setLane n l).running = s.running := rfl
@[simp] theorem setLane_clock (s : State) (n : LaneId) (l : Lane) : (s.setLane n l).clock = s.clock := rfl
@[simp] theorem setLane_store (s : State) (n : LaneId) (l : Lane) : (s.setLane n l).store = s.store := rfl
@[simp] theorem setLane_classifier (s : State) (n : LaneId) (l : Lane) : (s.setLane n l).classifier = s.classifier := rfl
@[simp] theorem setLane_queues (s : State) (n : LaneId) (l : Lane) : (s.setLane n l).queues = s.queues := rfl
@[simp] theorem setLane_slots (s : State) (n : LaneId) (l : Lane) : (s.setLane n l).slots = s.slots := rfl
@[simp] theorem setLane_notice (s : State) (n : LaneId) (l : Lane) : (s.setLane n l).notice = s.notice := rfl
@[simp] theorem setLane_link (s : State) (n : LaneId) (l : Lane) : (s.setLane n l).link = s.link := rfl

@[simp] theorem mapLane_pending (s : State) (n : LaneId) (f : Lane → Lane) : (s.mapLane n f).pending = s.pending := rfl
@[simp] theorem mapLane_lines (s : State) (n : LaneId) (f : Lane → Lane) : (s.mapLane n f).lines = s.lines := rfl
@[simp] theorem mapLane_running (s : State) (n : LaneId) (f : Lane → Lane) : (s.mapLane n f).running = s.running := rfl
@[simp] theorem mapLane_clock (s : State) (n : LaneId) (f : Lane → Lane) : (s.mapLane n f).clock = s.clock := rfl
@[simp] theorem mapLane_store (s : State) (n : LaneId) (f : Lane → Lane) : (s.mapLane n f).store = s.store := rfl
@[simp] theorem mapLane_classifier (s : State) (n : LaneId) (f : Lane → Lane) : (s.mapLane n f).classifier = s.classifier := rfl
@[simp] theorem mapLane_queues (s : State) (n : LaneId) (f : Lane → Lane) : (s.mapLane n f).queues = s.queues := rfl
@[simp] theorem mapLane_slots (s : State) (n : LaneId) (f : Lane → Lane) : (s.mapLane n f).slots = s.slots := rfl
@[simp] theorem mapLane_notice (s : State) (n : LaneId) (f : Lane → Lane) : (s.mapLane n f).notice = s.notice := rfl
@[simp] theorem mapLane_link (s : State) (n : LaneId) (f : Lane → Lane) : (s.mapLane n f).link = s.link := rfl

@[simp] theorem setQueue_pending (s : State) (q : QueueId) (x : Queue) : (s.setQueue q x).pending = s.pending := rfl
@[simp] theorem setQueue_lines (s : State) (q : QueueId) (x : Queue) : (s.setQueue q x).lines = s.lines := rfl
@[simp] theorem setQueue_running (s : State) (q : QueueId) (x : Queue) : (s.setQueue q x).running = s.running := rfl
@[simp] theorem setQueue_clock (s : State) (q : QueueId) (x : Queue) : (s.setQueue q x).clock = s.clock := rfl
@[simp] theorem setQueue_lanes (s : State) (q : QueueId) (x : Queue) : (s.setQueue q x).lanes = s.lanes := rfl
@[simp] theorem setQueue_store (s : State) (q : QueueId) (x : Queue) : (s.setQueue q x).store = s.store := rfl
@[simp] theorem setQueue_classifier (s : State) (q : QueueId) (x : Queue) : (s.setQueue q x).classifier = s.classifier := rfl
@[simp] theorem setQueue_slots (s : State) (q : QueueId) (x : Queue) : (s.setQueue q x).slots = s.slots := rfl
@[simp] theorem setQueue_notice (s : State) (q : QueueId) (x : Queue) : (s.setQueue q x).notice = s.notice := rfl
@[simp] theorem setQueue_link (s : State) (q : QueueId) (x : Queue) : (s.setQueue q x).link = s.link := rfl

@[simp] theorem setSlot_pending (s : State) (i : SlotId) (x : Slot) : (s.setSlot i x).pending = s.pending := rfl
@[simp] theorem setSlot_lines (s : State) (i : SlotId) (x : Slot) : (s.setSlot i x).lines = s.lines := rfl
@[simp] theorem setSlot_running (s : State) (i : SlotId) (x : Slot) : (s.setSlot i x).running = s.running := rfl
@[simp] theorem setSlot_clock (s : State) (i : SlotId) (x : Slot) : (s.setSlot i x).clock = s.clock := rfl
@[simp] theorem setSlot_lanes (s : State) (i : SlotId) (x : Slot) : (s.setSlot i x).lanes = s.lanes := rfl
@[simp] theorem setSlot_store (s : State) (i : SlotId) (x : Slot) : (s.setSlot i x).store = s.store := rfl
@[simp] theorem setSlot_classifier (s : State) (i : SlotId) (x : Slot) : (s.setSlot i x).classifier = s.classifier := rfl
@[simp] theorem setSlot_queues (s : State) (i : SlotId) (x : Slot) : (s.setSlot i x).queues = s.queues := rfl
@[simp] theorem setSlot_notice (s : State) (i : SlotId) (x : Slot) : (s.setSlot i x).notice = s.notice := rfl
@[simp] theorem setSlot_link (s : State) (i : SlotId) (x : Slot) : (s.setSlot i x).link = s.link := rfl

@[simp] theorem raise_pending (s : State) (k : AlertKind) (b : Byte) : (s.raise k b).pending = s.pending := rfl
@[simp] theorem raise_lines (s : State) (k : AlertKind) (b : Byte) : (s.raise k b).lines = s.lines := rfl
@[simp] theorem raise_running (s : State) (k : AlertKind) (b : Byte) : (s.raise k b).running = s.running := rfl
@[simp] theorem raise_clock (s : State) (k : AlertKind) (b : Byte) : (s.raise k b).clock = s.clock := rfl
@[simp] theorem raise_lanes (s : State) (k : AlertKind) (b : Byte) : (s.raise k b).lanes = s.lanes := rfl
@[simp] theorem raise_store (s : State) (k : AlertKind) (b : Byte) : (s.raise k b).store = s.store := rfl
@[simp] theorem raise_classifier (s : State) (k : AlertKind) (b : Byte) : (s.raise k b).classifier = s.classifier := rfl
@[simp] theorem raise_queues (s : State) (k : AlertKind) (b : Byte) : (s.raise k b).queues = s.queues := rfl
@[simp] theorem raise_slots (s : State) (k : AlertKind) (b : Byte) : (s.raise k b).slots = s.slots := rfl
@[simp] theorem raise_link (s : State) (k : AlertKind) (b : Byte) : (s.raise k b).link = s.link := rfl

@[simp] theorem freeRecord_pending (s : State) (r : Record) : (s.freeRecord r).pending = s.pending := rfl
@[simp] theorem freeRecord_lines (s : State) (r : Record) : (s.freeRecord r).lines = s.lines := rfl
@[simp] theorem freeRecord_running (s : State) (r : Record) : (s.freeRecord r).running = s.running := rfl
@[simp] theorem freeRecord_clock (s : State) (r : Record) : (s.freeRecord r).clock = s.clock := rfl
@[simp] theorem freeRecord_lanes (s : State) (r : Record) : (s.freeRecord r).lanes = s.lanes := rfl
@[simp] theorem freeRecord_classifier (s : State) (r : Record) : (s.freeRecord r).classifier = s.classifier := rfl
@[simp] theorem freeRecord_queues (s : State) (r : Record) : (s.freeRecord r).queues = s.queues := rfl
@[simp] theorem freeRecord_slots (s : State) (r : Record) : (s.freeRecord r).slots = s.slots := rfl
@[simp] theorem freeRecord_notice (s : State) (r : Record) : (s.freeRecord r).notice = s.notice := rfl
@[simp] theorem freeRecord_link (s : State) (r : Record) : (s.freeRecord r).link = s.link := rfl

@[simp] theorem evalDue_pending (s : State) (q : QueueId) : (s.evalDue q).pending = s.pending := rfl
@[simp] theorem evalDue_lines (s : State) (q : QueueId) : (s.evalDue q).lines = s.lines := rfl
@[simp] theorem evalDue_running (s : State) (q : QueueId) : (s.evalDue q).running = s.running := rfl
@[simp] theorem evalDue_clock (s : State) (q : QueueId) : (s.evalDue q).clock = s.clock := rfl
@[simp] theorem evalDue_lanes (s : State) (q : QueueId) : (s.evalDue q).lanes = s.lanes := rfl
@[simp] theorem evalDue_store (s : State) (q : QueueId) : (s.evalDue q).store = s.store := rfl
@[simp] theorem evalDue_classifier (s : State) (q : QueueId) : (s.evalDue q).classifier = s.classifier := rfl
@[simp] theorem evalDue_queues (s : State) (q : QueueId) : (s.evalDue q).queues = s.queues := rfl
@[simp] theorem evalDue_slots (s : State) (q : QueueId) : (s.evalDue q).slots = s.slots := rfl
@[simp] theorem evalDue_link (s : State) (q : QueueId) : (s.evalDue q).link = s.link := rfl

@[simp] theorem setList_pending (s : State) (q : QueueId) (l : List Record) : (s.setList q l).pending = s.pending := rfl
@[simp] theorem setList_lines (s : State) (q : QueueId) (l : List Record) : (s.setList q l).lines = s.lines := rfl
@[simp] theorem setList_running (s : State) (q : QueueId) (l : List Record) : (s.setList q l).running = s.running := rfl
@[simp] theorem setList_clock (s : State) (q : QueueId) (l : List Record) : (s.setList q l).clock = s.clock := rfl
@[simp] theorem setList_lanes (s : State) (q : QueueId) (l : List Record) : (s.setList q l).lanes = s.lanes := rfl
@[simp] theorem setList_store (s : State) (q : QueueId) (l : List Record) : (s.setList q l).store = s.store := rfl
@[simp] theorem setList_classifier (s : State) (q : QueueId) (l : List Record) : (s.setList q l).classifier = s.classifier := rfl
@[simp] theorem setList_slots (s : State) (q : QueueId) (l : List Record) : (s.setList q l).slots = s.slots := rfl
@[simp] theorem setList_link (s : State) (q : QueueId) (l : List Record) : (s.setList q l).link = s.link := rfl

@[simp] theorem setCharge_pending (s : State) (q : QueueId) (c : Nat) : (s.setCharge q c).pending = s.pending := rfl
@[simp] theorem setCharge_lines (s : State) (q : QueueId) (c : Nat) : (s.setCharge q c).lines = s.lines := rfl
@[simp] theorem setCharge_running (s : State) (q : QueueId) (c : Nat) : (s.setCharge q c).running = s.running := rfl
@[simp] theorem setCharge_clock (s : State) (q : QueueId) (c : Nat) : (s.setCharge q c).clock = s.clock := rfl
@[simp] theorem setCharge_lanes (s : State) (q : QueueId) (c : Nat) : (s.setCharge q c).lanes = s.lanes := rfl
@[simp] theorem setCharge_store (s : State) (q : QueueId) (c : Nat) : (s.setCharge q c).store = s.store := rfl
@[simp] theorem setCharge_classifier (s : State) (q : QueueId) (c : Nat) : (s.setCharge q c).classifier = s.classifier := rfl
@[simp] theorem setCharge_slots (s : State) (q : QueueId) (c : Nat) : (s.setCharge q c).slots = s.slots := rfl
@[simp] theorem setCharge_notice (s : State) (q : QueueId) (c : Nat) : (s.setCharge q c).notice = s.notice := rfl
@[simp] theorem setCharge_link (s : State) (q : QueueId) (c : Nat) : (s.setCharge q c).link = s.link := rfl

@[simp] theorem chargeUp_pending (s : State) (q : QueueId) : (s.chargeUp q).pending = s.pending := rfl
@[simp] theorem chargeUp_lines (s : State) (q : QueueId) : (s.chargeUp q).lines = s.lines := rfl
@[simp] theorem chargeUp_running (s : State) (q : QueueId) : (s.chargeUp q).running = s.running := rfl
@[simp] theorem chargeUp_clock (s : State) (q : QueueId) : (s.chargeUp q).clock = s.clock := rfl
@[simp] theorem chargeUp_lanes (s : State) (q : QueueId) : (s.chargeUp q).lanes = s.lanes := rfl
@[simp] theorem chargeUp_store (s : State) (q : QueueId) : (s.chargeUp q).store = s.store := rfl
@[simp] theorem chargeUp_classifier (s : State) (q : QueueId) : (s.chargeUp q).classifier = s.classifier := rfl
@[simp] theorem chargeUp_slots (s : State) (q : QueueId) : (s.chargeUp q).slots = s.slots := rfl
@[simp] theorem chargeUp_notice (s : State) (q : QueueId) : (s.chargeUp q).notice = s.notice := rfl
@[simp] theorem chargeUp_link (s : State) (q : QueueId) : (s.chargeUp q).link = s.link := rfl

@[simp] theorem chargeDown_pending (s : State) (q : QueueId) : (s.chargeDown q).pending = s.pending := rfl
@[simp] theorem chargeDown_lines (s : State) (q : QueueId) : (s.chargeDown q).lines = s.lines := rfl
@[simp] theorem chargeDown_running (s : State) (q : QueueId) : (s.chargeDown q).running = s.running := rfl
@[simp] theorem chargeDown_clock (s : State) (q : QueueId) : (s.chargeDown q).clock = s.clock := rfl
@[simp] theorem chargeDown_lanes (s : State) (q : QueueId) : (s.chargeDown q).lanes = s.lanes := rfl
@[simp] theorem chargeDown_store (s : State) (q : QueueId) : (s.chargeDown q).store = s.store := rfl
@[simp] theorem chargeDown_classifier (s : State) (q : QueueId) : (s.chargeDown q).classifier = s.classifier := rfl
@[simp] theorem chargeDown_slots (s : State) (q : QueueId) : (s.chargeDown q).slots = s.slots := rfl
@[simp] theorem chargeDown_notice (s : State) (q : QueueId) : (s.chargeDown q).notice = s.notice := rfl
@[simp] theorem chargeDown_link (s : State) (q : QueueId) : (s.chargeDown q).link = s.link := rfl

@[simp] theorem countQueue_pending (s : State) (q : QueueId) (f : QueueCounters → QueueCounters) : (s.countQueue q f).pending = s.pending := rfl
@[simp] theorem countQueue_lines (s : State) (q : QueueId) (f : QueueCounters → QueueCounters) : (s.countQueue q f).lines = s.lines := rfl
@[simp] theorem countQueue_running (s : State) (q : QueueId) (f : QueueCounters → QueueCounters) : (s.countQueue q f).running = s.running := rfl
@[simp] theorem countQueue_clock (s : State) (q : QueueId) (f : QueueCounters → QueueCounters) : (s.countQueue q f).clock = s.clock := rfl
@[simp] theorem countQueue_lanes (s : State) (q : QueueId) (f : QueueCounters → QueueCounters) : (s.countQueue q f).lanes = s.lanes := rfl
@[simp] theorem countQueue_store (s : State) (q : QueueId) (f : QueueCounters → QueueCounters) : (s.countQueue q f).store = s.store := rfl
@[simp] theorem countQueue_classifier (s : State) (q : QueueId) (f : QueueCounters → QueueCounters) : (s.countQueue q f).classifier = s.classifier := rfl
@[simp] theorem countQueue_slots (s : State) (q : QueueId) (f : QueueCounters → QueueCounters) : (s.countQueue q f).slots = s.slots := rfl
@[simp] theorem countQueue_notice (s : State) (q : QueueId) (f : QueueCounters → QueueCounters) : (s.countQueue q f).notice = s.notice := rfl
@[simp] theorem countQueue_link (s : State) (q : QueueId) (f : QueueCounters → QueueCounters) : (s.countQueue q f).link = s.link := rfl

@[simp] theorem countLink_pending (s : State) (f : LinkCounters → LinkCounters) : (s.countLink f).pending = s.pending := rfl
@[simp] theorem countLink_lines (s : State) (f : LinkCounters → LinkCounters) : (s.countLink f).lines = s.lines := rfl
@[simp] theorem countLink_running (s : State) (f : LinkCounters → LinkCounters) : (s.countLink f).running = s.running := rfl
@[simp] theorem countLink_clock (s : State) (f : LinkCounters → LinkCounters) : (s.countLink f).clock = s.clock := rfl
@[simp] theorem countLink_lanes (s : State) (f : LinkCounters → LinkCounters) : (s.countLink f).lanes = s.lanes := rfl
@[simp] theorem countLink_store (s : State) (f : LinkCounters → LinkCounters) : (s.countLink f).store = s.store := rfl
@[simp] theorem countLink_classifier (s : State) (f : LinkCounters → LinkCounters) : (s.countLink f).classifier = s.classifier := rfl
@[simp] theorem countLink_queues (s : State) (f : LinkCounters → LinkCounters) : (s.countLink f).queues = s.queues := rfl
@[simp] theorem countLink_slots (s : State) (f : LinkCounters → LinkCounters) : (s.countLink f).slots = s.slots := rfl
@[simp] theorem countLink_notice (s : State) (f : LinkCounters → LinkCounters) : (s.countLink f).notice = s.notice := rfl

@[simp] theorem popRequest_pending (s : State) : (s.popRequest).pending = s.pending := rfl
@[simp] theorem popRequest_lines (s : State) : (s.popRequest).lines = s.lines := rfl
@[simp] theorem popRequest_running (s : State) : (s.popRequest).running = s.running := rfl
@[simp] theorem popRequest_clock (s : State) : (s.popRequest).clock = s.clock := rfl
@[simp] theorem popRequest_lanes (s : State) : (s.popRequest).lanes = s.lanes := rfl
@[simp] theorem popRequest_store (s : State) : (s.popRequest).store = s.store := rfl
@[simp] theorem popRequest_classifier (s : State) : (s.popRequest).classifier = s.classifier := rfl
@[simp] theorem popRequest_queues (s : State) : (s.popRequest).queues = s.queues := rfl
@[simp] theorem popRequest_slots (s : State) : (s.popRequest).slots = s.slots := rfl
@[simp] theorem popRequest_notice (s : State) : (s.popRequest).notice = s.notice := rfl

@[simp] theorem countClassifier_pending (s : State) (f : ClassifierCounters → ClassifierCounters) : (s.countClassifier f).pending = s.pending := rfl
@[simp] theorem countClassifier_lines (s : State) (f : ClassifierCounters → ClassifierCounters) : (s.countClassifier f).lines = s.lines := rfl
@[simp] theorem countClassifier_running (s : State) (f : ClassifierCounters → ClassifierCounters) : (s.countClassifier f).running = s.running := rfl
@[simp] theorem countClassifier_clock (s : State) (f : ClassifierCounters → ClassifierCounters) : (s.countClassifier f).clock = s.clock := rfl
@[simp] theorem countClassifier_lanes (s : State) (f : ClassifierCounters → ClassifierCounters) : (s.countClassifier f).lanes = s.lanes := rfl
@[simp] theorem countClassifier_store (s : State) (f : ClassifierCounters → ClassifierCounters) : (s.countClassifier f).store = s.store := rfl
@[simp] theorem countClassifier_queues (s : State) (f : ClassifierCounters → ClassifierCounters) : (s.countClassifier f).queues = s.queues := rfl
@[simp] theorem countClassifier_slots (s : State) (f : ClassifierCounters → ClassifierCounters) : (s.countClassifier f).slots = s.slots := rfl
@[simp] theorem countClassifier_notice (s : State) (f : ClassifierCounters → ClassifierCounters) : (s.countClassifier f).notice = s.notice := rfl
@[simp] theorem countClassifier_link (s : State) (f : ClassifierCounters → ClassifierCounters) : (s.countClassifier f).link = s.link := rfl

@[simp] theorem emptySlot_pending (s : State) (i : SlotId) : (s.emptySlot i).pending = s.pending := rfl
@[simp] theorem emptySlot_lines (s : State) (i : SlotId) : (s.emptySlot i).lines = s.lines := rfl
@[simp] theorem emptySlot_running (s : State) (i : SlotId) : (s.emptySlot i).running = s.running := rfl
@[simp] theorem emptySlot_clock (s : State) (i : SlotId) : (s.emptySlot i).clock = s.clock := rfl
@[simp] theorem emptySlot_lanes (s : State) (i : SlotId) : (s.emptySlot i).lanes = s.lanes := rfl
@[simp] theorem emptySlot_store (s : State) (i : SlotId) : (s.emptySlot i).store = s.store := rfl
@[simp] theorem emptySlot_classifier (s : State) (i : SlotId) : (s.emptySlot i).classifier = s.classifier := rfl
@[simp] theorem emptySlot_queues (s : State) (i : SlotId) : (s.emptySlot i).queues = s.queues := rfl
@[simp] theorem emptySlot_notice (s : State) (i : SlotId) : (s.emptySlot i).notice = s.notice := rfl
@[simp] theorem emptySlot_link (s : State) (i : SlotId) : (s.emptySlot i).link = s.link := rfl

end State

/-! ## Reading after a write -/

@[simp] theorem mapVec_get {α β : Type} {k : Nat} (f : α → β) (v : Vector α k) (i : Fin k) : (mapVec f v)[i] = f v[i] := by
  simp [mapVec, Fin.getElem_fin]

@[simp] theorem eachQueue_get {α : Type} (f : QueueId → α) (q : QueueId) : (eachQueue f)[q] = f q := by
  match q with
  | 0 | 1 | 2 | 3 | 4 | 5 | 6 | 7 => rfl

theorem vector_set_same {α : Type} {k : Nat} (v : Vector α k) (i : Fin k) (x : α) : (v.set i x)[i] = x := by
  simp [Fin.getElem_fin]

theorem vector_set_ne {α : Type} {k : Nat} (v : Vector α k) {i j : Fin k} (x : α) (h : i ≠ j) : (v.set i x)[j] = v[j] := by
  have h' : (i : Nat) ≠ (j : Nat) := fun e => h (Fin.ext e)
  simp [Fin.getElem_fin, h']

theorem vector_set_get {α : Type} {k : Nat} (v : Vector α k) (i j : Fin k) (x : α) :
    (v.set i x)[j] = if i = j then x else v[j] := by
  by_cases h : i = j
  · subst h; simp
  · simp [h, vector_set_ne v x h]

namespace State

theorem lane_setLane (s : State) (n m : LaneId) (l : Lane) :
    (s.setLane n l).lane m = if n = m then l else s.lane m := vector_set_get _ _ _ _

theorem lane_mapLane (s : State) (n m : LaneId) (f : Lane → Lane) :
    (s.mapLane n f).lane m = if n = m then f (s.lane n) else s.lane m := vector_set_get _ _ _ _

@[simp] theorem lane_mapLane_same (s : State) (n : LaneId) (f : Lane → Lane) :
    (s.mapLane n f).lane n = f (s.lane n) := by simp [lane_mapLane]

theorem queue_setQueue (s : State) (q p : QueueId) (x : Queue) :
    (s.setQueue q x).queue p = if q = p then x else s.queue p := vector_set_get _ _ _ _

@[simp] theorem queue_setQueue_same (s : State) (q : QueueId) (x : Queue) : (s.setQueue q x).queue q = x := by
  simp [queue_setQueue]

theorem slot_setSlot (s : State) (i j : SlotId) (x : Slot) :
    (s.setSlot i x).slot j = if i = j then x else s.slot j := vector_set_get _ _ _ _

@[simp] theorem slot_setSlot_same (s : State) (i : SlotId) (x : Slot) : (s.setSlot i x).slot i = x := by
  simp [slot_setSlot]

theorem levels_setLevel (n : Notice) (q p : QueueId) (l : Level) :
    (n.setLevel q l).levels[p] = if q = p then l else n.levels[p] := vector_set_get _ _ _ _

@[simp] theorem queue_setLane (s : State) (n : LaneId) (l : Lane) (m : QueueId) : (s.setLane n l).queue m = s.queue m := rfl
@[simp] theorem slot_setLane (s : State) (n : LaneId) (l : Lane) (m : SlotId) : (s.setLane n l).slot m = s.slot m := rfl

@[simp] theorem queue_mapLane (s : State) (n : LaneId) (f : Lane → Lane) (m : QueueId) : (s.mapLane n f).queue m = s.queue m := rfl
@[simp] theorem slot_mapLane (s : State) (n : LaneId) (f : Lane → Lane) (m : SlotId) : (s.mapLane n f).slot m = s.slot m := rfl

@[simp] theorem lane_setQueue (s : State) (q : QueueId) (x : Queue) (m : LaneId) : (s.setQueue q x).lane m = s.lane m := rfl
@[simp] theorem slot_setQueue (s : State) (q : QueueId) (x : Queue) (m : SlotId) : (s.setQueue q x).slot m = s.slot m := rfl

@[simp] theorem lane_setSlot (s : State) (i : SlotId) (x : Slot) (m : LaneId) : (s.setSlot i x).lane m = s.lane m := rfl
@[simp] theorem queue_setSlot (s : State) (i : SlotId) (x : Slot) (m : QueueId) : (s.setSlot i x).queue m = s.queue m := rfl

@[simp] theorem lane_raise (s : State) (k : AlertKind) (b : Byte) (m : LaneId) : (s.raise k b).lane m = s.lane m := rfl
@[simp] theorem queue_raise (s : State) (k : AlertKind) (b : Byte) (m : QueueId) : (s.raise k b).queue m = s.queue m := rfl
@[simp] theorem slot_raise (s : State) (k : AlertKind) (b : Byte) (m : SlotId) : (s.raise k b).slot m = s.slot m := rfl

@[simp] theorem lane_freeRecord (s : State) (r : Record) (m : LaneId) : (s.freeRecord r).lane m = s.lane m := rfl
@[simp] theorem queue_freeRecord (s : State) (r : Record) (m : QueueId) : (s.freeRecord r).queue m = s.queue m := rfl
@[simp] theorem slot_freeRecord (s : State) (r : Record) (m : SlotId) : (s.freeRecord r).slot m = s.slot m := rfl

@[simp] theorem lane_evalDue (s : State) (q : QueueId) (m : LaneId) : (s.evalDue q).lane m = s.lane m := rfl
@[simp] theorem queue_evalDue (s : State) (q : QueueId) (m : QueueId) : (s.evalDue q).queue m = s.queue m := rfl
@[simp] theorem slot_evalDue (s : State) (q : QueueId) (m : SlotId) : (s.evalDue q).slot m = s.slot m := rfl

@[simp] theorem lane_setList (s : State) (q : QueueId) (l : List Record) (m : LaneId) : (s.setList q l).lane m = s.lane m := rfl
@[simp] theorem slot_setList (s : State) (q : QueueId) (l : List Record) (m : SlotId) : (s.setList q l).slot m = s.slot m := rfl

@[simp] theorem lane_setCharge (s : State) (q : QueueId) (c : Nat) (m : LaneId) : (s.setCharge q c).lane m = s.lane m := rfl
@[simp] theorem slot_setCharge (s : State) (q : QueueId) (c : Nat) (m : SlotId) : (s.setCharge q c).slot m = s.slot m := rfl

@[simp] theorem lane_chargeUp (s : State) (q : QueueId) (m : LaneId) : (s.chargeUp q).lane m = s.lane m := rfl
@[simp] theorem slot_chargeUp (s : State) (q : QueueId) (m : SlotId) : (s.chargeUp q).slot m = s.slot m := rfl

@[simp] theorem lane_chargeDown (s : State) (q : QueueId) (m : LaneId) : (s.chargeDown q).lane m = s.lane m := rfl
@[simp] theorem slot_chargeDown (s : State) (q : QueueId) (m : SlotId) : (s.chargeDown q).slot m = s.slot m := rfl

@[simp] theorem lane_countQueue (s : State) (q : QueueId) (f : QueueCounters → QueueCounters) (m : LaneId) : (s.countQueue q f).lane m = s.lane m := rfl
@[simp] theorem slot_countQueue (s : State) (q : QueueId) (f : QueueCounters → QueueCounters) (m : SlotId) : (s.countQueue q f).slot m = s.slot m := rfl

@[simp] theorem lane_countLink (s : State) (f : LinkCounters → LinkCounters) (m : LaneId) : (s.countLink f).lane m = s.lane m := rfl
@[simp] theorem queue_countLink (s : State) (f : LinkCounters → LinkCounters) (m : QueueId) : (s.countLink f).queue m = s.queue m := rfl
@[simp] theorem slot_countLink (s : State) (f : LinkCounters → LinkCounters) (m : SlotId) : (s.countLink f).slot m = s.slot m := rfl

@[simp] theorem lane_popRequest (s : State) (m : LaneId) : (s.popRequest).lane m = s.lane m := rfl
@[simp] theorem queue_popRequest (s : State) (m : QueueId) : (s.popRequest).queue m = s.queue m := rfl
@[simp] theorem slot_popRequest (s : State) (m : SlotId) : (s.popRequest).slot m = s.slot m := rfl

@[simp] theorem lane_countClassifier (s : State) (f : ClassifierCounters → ClassifierCounters) (m : LaneId) : (s.countClassifier f).lane m = s.lane m := rfl
@[simp] theorem queue_countClassifier (s : State) (f : ClassifierCounters → ClassifierCounters) (m : QueueId) : (s.countClassifier f).queue m = s.queue m := rfl
@[simp] theorem slot_countClassifier (s : State) (f : ClassifierCounters → ClassifierCounters) (m : SlotId) : (s.countClassifier f).slot m = s.slot m := rfl

@[simp] theorem lane_emptySlot (s : State) (i : SlotId) (m : LaneId) : (s.emptySlot i).lane m = s.lane m := rfl
@[simp] theorem queue_emptySlot (s : State) (i : SlotId) (m : QueueId) : (s.emptySlot i).queue m = s.queue m := rfl

end State

end Sys2Proof.Machine
end

