-- ==== Sys2Proof/Laws/Receivers.lean ====
section
/-! SUPPORT. What the operations of a receiver do to it, and what the taking of one character changes of the part. -/

namespace Sys2Proof.Machine

namespace Reception

/-- Hunting resumes as `Reception.failed` says (R27, R153). -/
theorem rehunt_eq (r : Reception) : r.rehunt = r.failed := by unfold rehunt failed; rw [List.drop_one]

/-- The gap test is `Reception.Late` (R27, R153). -/
theorem gapPassed_iff (now : Nat) (r : Reception) : r.gapPassed now = true ↔ r.Late now := by
  unfold gapPassed Late
  rw [Bool.and_eq_true, List.isEmpty_iff]
  refine and_congr_right fun _ => ?_
  cases r.frame.getLast? <;> simp

/-- What a character does to the frame (R27, R153). -/
theorem gather_eq (sof : Byte) (c : LineChar) (r : Reception) : r.gather sof c =
    { r with frame := if r.frame = [] then (if c.stop = true ∧ c.byte = sof then [c] else []) else r.frame ++ [c] } := by
  unfold gather
  cases h : r.frame
  · simp only [if_true]
    split
    · rfl
    · cases r; cases h; rfl
  · simp

/-- When there is a next character, and which it is. -/
theorem next_eq_some {gapEnd : Nat} {line rest : List Arrival} {r k : Reception} {c : LineChar} :
    r.next gapEnd line = some (c, k, rest) ↔ NextCharacter gapEnd r line c k.again rest ∧ k.frame = r.frame := by
  obtain ⟨f, a⟩ := r
  obtain ⟨f', a'⟩ := k
  unfold next NextCharacter
  cases a with
  | cons x xs =>
    simp only [Option.some.injEq, Prod.mk.injEq, Reception.mk.injEq, List.cons.injEq, reduceCtorEq, false_and, or_false]
    constructor <;> (rintro h; simp_all)
  | nil =>
    cases line with
    | nil => simp
    | cons y ys =>
      by_cases hw : y.wait = 0
      · simp [hw]
        constructor
        · rintro ⟨rfl, ⟨rfl, rfl⟩, rfl⟩; exact ⟨⟨rfl, rfl, rfl⟩, rfl⟩
        · rintro ⟨⟨rfl, rfl, rfl⟩, rfl⟩; exact ⟨rfl, ⟨rfl, rfl⟩, rfl⟩
      · simp [hw]

/-- When there is none. -/
theorem next_eq_none {gapEnd : Nat} {line : List Arrival} {r : Reception} :
    r.next gapEnd line = none ↔ NoCharacter r line := by
  obtain ⟨f, a⟩ := r
  unfold next NoCharacter
  cases a <;> cases line <;> simp

end Reception

namespace Lane

/-- Writing what has been received of the payload changes the assembly's payload and nothing else of the record. -/
theorem fillPayload_eq (l : Lane) (r : Record) : ∃ p, l.fillPayload r = { r with payload := p } := by
  unfold fillPayload
  split
  · exact ⟨r.payload, rfl⟩
  · exact ⟨_, rfl⟩

@[simp] theorem fillPayload_blocks (l : Lane) (r : Record) : (l.fillPayload r).blocks = r.blocks := by
  obtain ⟨p, h⟩ := l.fillPayload_eq r
  rw [h]; rfl

@[simp] theorem storePayload_assembly (l : Lane) : l.storePayload.assembly = l.assembly.map l.fillPayload := rfl
@[simp] theorem storePayload_state (l : Lane) : l.storePayload.state = l.state := rfl
@[simp] theorem storePayload_receiver (l : Lane) : l.storePayload.receiver = l.receiver := rfl
@[simp] theorem storePayload_reception (l : Lane) : l.storePayload.reception = l.reception := rfl

/-- The payload so far is stored as `Lane.payloadStored` says (R3, R5, R59). -/
theorem storePayload_eq (l : Lane) : l.storePayload = l.payloadStored := by
  obtain ⟨_, _, _, _, _, _, _, assembly, _, _, _, _, _, receiver, _⟩ := l
  cases receiver <;> cases assembly <;>
    simp [storePayload, payloadStored, fillPayload, Reception.bytes, List.map_drop, List.map_take]

/-- A lane that assembles nothing stores nothing. -/
theorem storePayload_of_none {l : Lane} (h : l.assembly = none) : l.storePayload = l := by
  rw [storePayload, h, Option.map_none, ← h]

/-- A lane whose receiver hunts stores nothing. -/
theorem storePayload_of_hunting {l : Lane} (h : l.receiver = .hunting) : l.storePayload = l := by
  rw [storePayload_eq, payloadStored, h]

end Lane

/-- The bytes a command brings are held as `Lane.gathered` says, and their payload bytes are stored. -/
theorem State.recordBytes_eq (n : LaneId) (bytes : List Byte) (s : State) :
    s.recordBytes n bytes = { s with lanes := s.lanes.set n ((s.lane n).gathered bytes s.clock).payloadStored } := by
  have h : ({ s.lane n with
      reception := (s.lane n).reception.holding (laneSof :: bytes) (s.clock + Config.laneCharGap) } : Lane).storePayload =
      ((s.lane n).gathered bytes s.clock).payloadStored := by
    rw [Lane.storePayload_eq]
    congr 1
    unfold Lane.gathered Reception.holding
    show ({ s.lane n with reception := if (s.lane n).reception.frame.map LineChar.byte = 0x9E :: bytes then _ else _ } : Lane) = _
    split <;> rfl
  show ({ s with lanes := s.lanes.set n _ } : State) = _
  exact congrArg (fun l => ({ s with lanes := s.lanes.set n l } : State)) h

/-- What the taking of one character changes of the part: a receiver and its line, and the payload of a record being
assembled. -/
inductive Takes : State → State → Prop where
  | control (s : State) (k : Reception) (line : List Arrival) :
    Takes s { s with lines := { s.lines with control := line }, link := { s.link with reception := k } }
  | lane (s : State) (n : LaneId) (k : Reception) (line : List Arrival) :
    Takes s { s with
      lines := { s.lines with lanes := s.lines.lanes.set n line }
      lanes := s.lanes.set n ({ s.lane n with reception := k } : Lane).storePayload }

theorem State.laneReceive_takes {s t : State} {n : LaneId} {c : Option Instr} (h : s.laneReceive n = some (t, c)) : Takes s t := by
  unfold State.laneReceive at h
  rw [Option.map_eq_some_iff] at h
  obtain ⟨⟨x, k, line⟩, _, h⟩ := h
  cases h; exact .lane s n _ line

/-- A receiver that takes a character changes nothing else. -/
theorem State.receive_takes {s t : State} {c : Option Instr} (h : s.receive = some (t, c)) : Takes s t := by
  unfold State.receive at h
  split at h
  · have key : ∀ {a b : Option (State × Option Instr)}, (a <|> b) = some (t, c) → a = some (t, c) ∨ b = some (t, c) := by
      intro a b h; cases a
      · exact .inr h
      · exact .inl h
    rcases key h with h | h
    · unfold State.controlReceive at h
      rw [Option.map_eq_some_iff] at h
      obtain ⟨⟨x, k, line⟩, _, h⟩ := h
      cases h; exact .control s _ line
    · rcases key h with h | h
      · exact laneReceive_takes h
      · rcases key h with h | h
        · exact laneReceive_takes h
        · rcases key h with h | h <;> exact laneReceive_takes h
  · cases h

end Sys2Proof.Machine
end

