-- ==== Sys2Proof/Laws/Lanes.lean ====
section
/-! SUPPORT. What each shared operation on a lane changes, as one equation whose right-hand side names every change. -/

namespace Sys2Proof.Machine

/-- An event of a running part is its effect. -/
theorem State.event_next {s : State} (h : s.running = true) (f) : s.event f = .next (f s) := by simp [State.event, h]

/-- A good frame is `Lane.heard` (R29, R37). -/
theorem Lane.goodFrame_eq (now) (l : Lane) : l.goodFrame now = l.heard now := by
  unfold Lane.goodFrame Lane.restartSilence Lane.heard Reception.ended
  show (if l.inSession = true then _ else _) = _
  split <;> simp_all

/-- The end of a session is `Lane.ended`. -/
theorem Lane.toDown_eq (l : Lane) : l.toDown = l.ended := rfl

/-- Entry to PROBING is `Lane.probing` (R32). -/
theorem Lane.enterProbing_eq (l : Lane) (t) : l.enterProbing t = l.probing t := rfl

/-- The free claim on an assembly is `Store.freed` (R15). -/
theorem State.freeAssembly_eq (r) (s : State) : s.freeAssembly r = { s with store := s.store.freed r } := by cases r <;> rfl

/-- The last write to an entry stands. -/
theorem vector_set_set {α} {k} (v : Vector α k) (n : Fin k) (a b : α) : (v.set n a).set n b = v.set n b := by
  ext i hi; simp [Vector.getElem_set]

/-- What the end of a session changes (R38, R39, R41, R42, R43). -/
theorem State.endSession_eq (n) (s : State) : s.endSession n = { s with lanes := s.lanes.set n (s.lane n).ended, store := s.store.freed (s.lane n).assembly } := by
  rw [State.endSession, State.freeAssembly_eq]; rfl

/-- A close that ends is `State.closed` (R41). -/
theorem State.closingEnd_eq (n) (s : State) : s.closingEnd n = s.closed n := by rw [State.closingEnd, State.endSession_eq]; rfl

/-- The loss of a lane is `State.lost` (R38). -/
theorem State.loseLane_eq (n) (s : State) : s.loseLane n = s.lost n := by
  unfold State.loseLane State.lost
  simp only [State.endSession_eq]
  split <;> rename_i h
  · simp only [State.raise, State.mapLane, State.setLane, State.lane, Fin.getElem_fin, Vector.getElem_set_self, vector_set_set, Lane.enterProbing_eq]; rfl
  · rfl

/-- The window test is `State.windowTested` (R41). -/
theorem State.checkWindow_eq (n) (s : State) : s.checkWindow n = s.windowTested n := by
  unfold State.checkWindow State.windowTested; simp only [State.closingEnd_eq]

/-- A lane reads as it was written. -/
theorem State.lane_set (s : State) (n : LaneId) (l : Lane) : ({ s with lanes := s.lanes.set n l } : State).lane n = l := by simp [State.lane]

/-- A bad frame is `State.badFramed` (R27, R29). -/
theorem State.badFrame_eq (n) (s : State) : s.badFrame n = s.badFramed n := by
  unfold State.badFrame State.badFramed
  simp only [State.mapLane, State.setLane, State.lane_set, State.loseLane_eq, Reception.rehunt_eq]
  rfl

/-- What the bad end verdict changes (R61). -/
theorem State.recordBad_eq (n r) (s : State) : s.recordBad n r = (({ s with
          store := s.store.free r
          lanes := s.lanes.set n { s.lane n with
            assembly := none
            pendingMissing := min ((s.lane n).pendingMissing + 1) 65535
            counters := { (s.lane n).counters with
              crcErrors := bump (s.lane n).counters.crcErrors
              missingTotal := bump (s.lane n).counters.missingTotal } } } : State).badFramed n).windowTested n := by
  unfold State.recordBad; simp only [State.badFrame_eq, State.checkWindow_eq]; rfl

/-- The two bytes of a 16-bit field, read back, are the field. -/
theorem half_be16 (x : Half) : half (x.extractLsb' 8 8) (x.extractLsb' 0 8) = x := by
  unfold half
  apply BitVec.eq_of_getLsbD_eq
  intro i hi
  simp only [BitVec.getLsbD_append, BitVec.getLsbD_extractLsb']
  split <;> rename_i h
  · simp [h]
  · have : i - 8 < 8 := by omega
    have e : 8 + (i - 8) = i := by omega
    simp [this, e]

end Sys2Proof.Machine
end

