-- ==== Sys2Proof/Laws/Requests.lean ====
section
/-! SUPPORT. What the execution of a request does to the control link: one law for every request row (R161 to R165, R168). -/

namespace Sys2Proof.Machine

/-- Placing a response frame is `Link.send`, and nothing else of the part changes. -/
theorem State.place_eq (f : OutFrame) (s : State) : s.place f = { s with link := s.link.send f } := by
  rcases h : s.link.sending with _ | g <;> rcases h' : s.link.outbound with _ | ⟨g', rest⟩ <;>
    simp [State.place, State.pump, Link.send, h, h']

/-- The end of an execution is `Link.concludedBy`, and nothing else of the part changes. -/
theorem State.finishWith_concluded (wrap : Frame → OutFrame) (r : Frame) (body : List Byte) (s : State) :
    s.finishWith wrap r body = { s with link := s.link.concludedBy wrap r body } := by
  simp [State.finishWith, State.place_eq, Link.concludedBy, pushCache, responseTo]

/-- The end of an execution whose request has left the queue is `Link.answeredBy`. -/
theorem State.finishWith_eq (wrap : Frame → OutFrame) (r : Frame) (body : List Byte) (s t : State)
    (h : t.link = s.popRequest.link) : t.finishWith wrap r body = { t with link := s.link.answeredBy wrap r body } := by
  rw [State.finishWith_concluded, h]; rfl

/-- The same, for an ordinary response. -/
theorem State.finish_eq (r : Frame) (body : List Byte) (s t : State) (h : t.link = s.popRequest.link) :
    t.finish r body = { t with link := s.link.answered r body } := State.finishWith_eq _ r body s t h

/-- A request can begin its execution exactly when `Starts` holds. -/
theorem State.startable_iff (s : State) (r : Frame) : s.startable = some r ↔ ∃ rest, Starts s r rest := by
  unfold State.startable
  constructor
  · intro h
    split at h
    · rename_i hc
      cases hr : s.link.requests with
      | nil => simp [hr] at h
      | cons a rest =>
        simp only [hr, List.head?_cons, Option.some.injEq] at h
        exact ⟨rest, hc.1, hc.2.1, hc.2.2.1, hc.2.2.2.1, hc.2.2.2.2, by rw [hr, h]⟩
    · cases h
  · rintro ⟨rest, h1, h2, h3, h4, h5, h6⟩
    rw [if_pos ⟨h1, h2, h3, h4, h5⟩, h6]; rfl

theorem Starts.startable {s : State} {r : Frame} {rest : List Frame} (h : Starts s r rest) : s.startable = some r :=
  (State.startable_iff s r).2 ⟨rest, h⟩

/-- What `withRequest` does to a request of its row with a fitting length. -/
theorem State.withRequest_starts {s : State} {r : Frame} {rest : List Frame} {row : Frame → Bool}
    {act : Frame → State → State} (h : Starts s r rest) (hrow : row r = true) (hlen : bodyLengthOk r = true) :
    s.withRequest row act = act r s.popRequest := by
  simp [State.withRequest, h.startable, hrow, hlen]

/-- What `withRequest` does to a request of its row whose length does not fit (R162). -/
theorem State.withRequest_badLength {s : State} {r : Frame} {rest : List Frame} {row : Frame → Bool}
    {act : Frame → State → State} (h : Starts s r rest) (hrow : row r = true) (hlen : bodyLengthOk r = false) :
    s.withRequest row act = { s with link := s.link.answered r [Result.badLength] } := by
  simp only [State.withRequest, h.startable, hrow, hlen, if_true, Bool.false_eq_true, if_false]
  rw [State.finish_eq r _ s _ rfl]; rfl

/-- The result of a request row: its block acts on the state with the request popped, and the response goes out. -/
theorem State.request_starts {s : State} {r : Frame} {rest : List Frame} {kind : Byte}
    {act : List Byte → State → State × List Byte} (h : Starts s r rest) (hk : r.kind = kind) (hlen : bodyLengthOk r = true) :
    s.request kind act = .next ((act r.body s.popRequest).1.finish r (act r.body s.popRequest).2) := by
  simp [State.request, State.withRequest_starts h (row := fun r => decide (r.kind = kind)) (by simp [hk]) hlen]

/-- The same for a block that leaves the control link alone. -/
theorem State.request_answered {s : State} {r : Frame} {rest : List Frame} {kind : Byte}
    {act : List Byte → State → State × List Byte} (h : Starts s r rest) (hk : r.kind = kind) (hlen : bodyLengthOk r = true)
    (hl : (act r.body s.popRequest).1.link = s.popRequest.link) :
    s.request kind act =
      .next { (act r.body s.popRequest).1 with link := s.link.answered r (act r.body s.popRequest).2 } := by
  rw [State.request_starts h hk hlen, State.finish_eq r _ s _ hl]

/-- Where no request can begin its execution, a request row does nothing (log 2). -/
theorem State.withRequest_idle {s : State} {row : Frame → Bool} {act : Frame → State → State} (h : s.startable = none) :
    s.withRequest row act = s := by
  simp [State.withRequest, h]

end Sys2Proof.Machine
end

