-- ==== Sys2Proof/Laws/Links.lean ====
section
/-! SUPPORT. What the operations of the Control Link Controller do: answers at arrival, and one relation for what they leave alone. -/

namespace Sys2Proof.Machine

/-- An answer made at a frame's arrival is `Link.answeredAtArrival`, and nothing else of the part changes (R164). -/
theorem State.answer_eq (f : Frame) (c) (s : State) : s.answer f c = { s with link := s.link.answeredAtArrival f c } := by
  unfold State.answer State.answerRoom Link.answeredAtArrival
  rcases h : s.link.executing with _ | e <;> simp [State.countLink, State.place_eq]
  · by_cases h8 : s.link.outbound.length < 8
    · simp [h8, h]
    · simp [h8, h, show ¬ s.link.outbound.length < 7 by omega]
  · by_cases h8 : s.link.outbound.length < 7
    · simp [h8, h]
    · simp [h8, h]

/-- How a good frame is taken: counted, then discarded, taken as a SYNC, or taken by the link state (R158, R159, R166). -/
theorem State.frameArrives_eq (f : Frame) (s : State) : s.frameArrives f =
    let t : State := { s with link := s.link.heard }
    if s.link.resetPending then t
    else if f.kind = 0x01 then t.syncArrives f.seq f.body
    else match s.link.state with
      | .unsynced => t.takeUnsynced f
      | .opened | .halted => t.takeSynced f := rfl

/-- What an operation of the Control Link Controller or the Notice Unit leaves of the part. -/
structure LinkSide (s t : State) : Prop where
  pending : t.pending = s.pending
  running : t.running = s.running
  clock : t.clock = s.clock
  lanes : t.lanes = s.lanes
  store : t.store = s.store
  classifier : t.classifier = s.classifier
  queues : t.queues = s.queues
  slots : t.slots = s.slots

namespace LinkSide

theorem refl (s : State) : LinkSide s s := ⟨rfl, rfl, rfl, rfl, rfl, rfl, rfl, rfl⟩

theorem trans {a b c : State} (h : LinkSide a b) (k : LinkSide b c) : LinkSide a c :=
  ⟨k.1.trans h.1, k.2.trans h.2, k.3.trans h.3, k.4.trans h.4, k.5.trans h.5, k.6.trans h.6, k.7.trans h.7, k.8.trans h.8⟩

variable {a s : State}

theorem place {f} (h : LinkSide a s) : LinkSide a (s.place f) := by
  rw [State.place_eq]; exact ⟨h.1, h.2, h.3, h.4, h.5, h.6, h.7, h.8⟩

theorem pump (h : LinkSide a s) : LinkSide a s.pump := by
  unfold State.pump; split <;> exact ⟨h.1, h.2, h.3, h.4, h.5, h.6, h.7, h.8⟩

theorem setLink {k} (h : LinkSide a s) : LinkSide a (({ s with link := k } : State)) := ⟨h.1, h.2, h.3, h.4, h.5, h.6, h.7, h.8⟩

theorem setNotice {n} (h : LinkSide a s) : LinkSide a (({ s with notice := n } : State)) := ⟨h.1, h.2, h.3, h.4, h.5, h.6, h.7, h.8⟩

theorem raise {k b} (h : LinkSide a s) : LinkSide a (s.raise k b) := ⟨h.1, h.2, h.3, h.4, h.5, h.6, h.7, h.8⟩

theorem countLink {f} (h : LinkSide a s) : LinkSide a (s.countLink f) := ⟨h.1, h.2, h.3, h.4, h.5, h.6, h.7, h.8⟩

theorem frameHeard (h : LinkSide a s) : LinkSide a s.frameHeard := ⟨h.1, h.2, h.3, h.4, h.5, h.6, h.7, h.8⟩

theorem popRequest  (h : LinkSide a s) : LinkSide a (s.popRequest) := ⟨h.1, h.2, h.3, h.4, h.5, h.6, h.7, h.8⟩

theorem requestNotice  (h : LinkSide a s) : LinkSide a (s.requestNotice) := ⟨h.1, h.2, h.3, h.4, h.5, h.6, h.7, h.8⟩

theorem syncNotice  (h : LinkSide a s) : LinkSide a (s.syncNotice) := ⟨h.1, h.2, h.3, h.4, h.5, h.6, h.7, h.8⟩

theorem beginNotice  (h : LinkSide a s) : LinkSide a (s.beginNotice) := ⟨h.1, h.2, h.3, h.4, h.5, h.6, h.7, h.8⟩

theorem finishWith {w r b} (h : LinkSide a s) : LinkSide a (s.finishWith w r b) := by
  unfold State.finishWith; exact .place (.setLink h)

theorem finish {r b} (h : LinkSide a s) : LinkSide a (s.finish r b) := by
  unfold State.finish; exact .finishWith h

theorem answer {f c} (h : LinkSide a s) : LinkSide a (s.answer f c) := by
  unfold State.answer; split
  · exact .place (.countLink h)
  · exact .countLink h

theorem refuse {q k c} (h : LinkSide a s) : LinkSide a (s.refuse q k c) := by unfold State.refuse; exact .answer h

theorem linkErrorTaken {f} (h : LinkSide a s) : LinkSide a (s.linkErrorTaken f) := by
  unfold State.linkErrorTaken; dsimp only
  have h' : LinkSide a (({ s with link := { s.link with errorFlag := true, reception := s.link.reception.rehunt } } : State).countLink f |>.raise .linkError 0) :=
    .raise (.countLink (.setLink h))
  split
  · exact .setLink h'
  · exact h'

theorem syncStep {q} (h : LinkSide a s) : LinkSide a (s.syncStep q) := by
  unfold State.syncStep; dsimp only; exact .place (.syncNotice (.setLink h))

theorem takeSync {q} (h : LinkSide a s) : LinkSide a (s.takeSync q) := by
  unfold State.takeSync; split
  · exact .syncStep h
  · exact .countLink h

theorem takeWaitingSyncs (h : LinkSide a s) : LinkSide a s.takeWaitingSyncs := by
  unfold State.takeWaitingSyncs
  have : ∀ (l : List Byte) (t : State), LinkSide a t → LinkSide a (l.foldl (fun s seq => s.takeSync seq) t) := by
    intro l
    induction l with
    | nil => exact fun t ht => ht
    | cons q l ih => exact fun t ht => ih _ (.takeSync ht)
  exact this _ _ (.setLink h)

theorem syncArrives {q b} (h : LinkSide a s) : LinkSide a (s.syncArrives q b) := by
  unfold State.syncArrives; split
  · exact .refuse h
  · split
    · exact .setLink h
    · exact .takeSync h

theorem takeUnsynced {f} (h : LinkSide a s) : LinkSide a (s.takeUnsynced f) := by
  unfold State.takeUnsynced; split
  · exact .answer h
  · exact .refuse h

theorem takeNew {f} (h : LinkSide a s) : LinkSide a (s.takeNew f) := by
  unfold State.takeNew; split
  · exact .refuse h
  · split
    · exact .setLink h
    · exact .answer h

theorem resend {f} (h : LinkSide a s) : LinkSide a (s.resend f) := by
  unfold State.resend; split
  · exact h
  · exact .answer h

theorem takeSynced {f} (h : LinkSide a s) : LinkSide a (s.takeSynced f) := by
  unfold State.takeSynced; split
  · exact .takeNew h
  · split
    · exact h
    · split
      · exact .resend h
      · exact .answer h

theorem frameArrives {f} (h : LinkSide a s) : LinkSide a (s.frameArrives f) := by
  unfold State.frameArrives; dsimp only
  have h' : LinkSide a s.frameHeard := .frameHeard h
  split
  · exact h'
  · split
    · exact .syncArrives h'
    · split
      · exact .takeUnsynced h'
      · exact .takeSynced h'
      · exact .takeSynced h'

theorem serveNotice (h : LinkSide a s) : LinkSide a s.serveNotice := by
  unfold State.serveNotice; split
  · exact .beginNotice h
  · exact h

theorem linkConfigAct {b} (h : LinkSide a s) : LinkSide a (Machine.linkConfigAct b s).1 := by
  unfold Machine.linkConfigAct; split
  · exact h
  · exact .setLink h

theorem clearErrorAct {b} (h : LinkSide a s) : LinkSide a (Machine.clearErrorAct b s).1 := .setLink h

/-- The end of a frame is the PART reset, or an event of the Control Link Controller and the Notice Unit. -/
theorem frameSent (s : State) : s.frameSent = s.partReset ∨ LinkSide s s.frameSent := by
  unfold State.frameSent; split
  · exact .inr (.refl s)
  · exact .inl rfl
  · exact .inr (.serveNotice (.pump (.setLink (.refl s))))
  · exact .inr (.serveNotice (.pump (.setLink (.refl s))))

end LinkSide

end Sys2Proof.Machine
end

