-- ==== Sys2Proof/Laws/Queues.lean ====
section
/-! SUPPORT. What the operations of the Queue Manager, the Delivery Unit and the Notice Unit leave alone: one relation, one lemma
for each operation. -/

namespace Sys2Proof.Machine

/-- What an operation of the Queue Manager, the Delivery Unit or the Notice Unit leaves of the part, and that it only frees
memory. -/
structure QueueSide (s t : State) : Prop where
  pending : t.pending = s.pending
  running : t.running = s.running
  clock : t.clock = s.clock
  lanes : t.lanes = s.lanes
  classifier : t.classifier = s.classifier
  link : t.link = s.link
  freeDescriptors : s.store.freeDescriptors ≤ t.store.freeDescriptors
  freeBlocks : s.store.freeBlocks ≤ t.store.freeBlocks
  pointer : t.store.pointer = s.store.pointer
  watermark : t.store.watermark = s.store.watermark
  /-- The Notice Unit sees raises, changes of queued counts and fresh evaluations alone. -/
  notice : ∀ Q : Notice → Prop, (∀ n k x, Q n → Q (n.raise k x s.synced)) →
    (∀ n q c o k, Q n → Q (n.follow q c o k s.clock s.synced)) → (∀ n q c k, Q n → Q (n.evalDue q c k s.clock s.synced)) →
    Q s.notice → Q t.notice

namespace QueueSide

theorem refl (s : State) : QueueSide s s := ⟨rfl, rfl, rfl, rfl, rfl, rfl, le_refl _, le_refl _, rfl, rfl, fun _ _ _ _ h => h⟩

theorem synced {s t : State} (h : QueueSide s t) : t.synced = s.synced := by unfold State.synced; rw [h.link]

theorem trans {a b c : State} (h : QueueSide a b) (k : QueueSide b c) : QueueSide a c :=
  ⟨k.1.trans h.1, k.2.trans h.2, k.3.trans h.3, k.4.trans h.4, k.5.trans h.5, k.6.trans h.6, h.7.trans k.7, h.8.trans k.8,
    k.9.trans h.9, k.10.trans h.10, fun Q h1 h2 h3 hq =>
      k.notice Q (by rw [h.synced]; exact h1) (by rw [h.synced, h.clock]; exact h2) (by rw [h.synced, h.clock]; exact h3)
        (h.notice Q h1 h2 h3 hq)⟩

variable {a s : State}

theorem raise {k b} (h : QueueSide a s) : QueueSide a (s.raise k b) := ⟨h.1, h.2, h.3, h.4, h.5, h.6, h.7, h.8, h.9, h.10,
    fun Q h1 h2 h3 hq => by rw [State.raise, h.synced]; exact h1 _ _ _ (h.11 Q h1 h2 h3 hq)⟩

theorem evalDue {q} (h : QueueSide a s) : QueueSide a (s.evalDue q) := ⟨h.1, h.2, h.3, h.4, h.5, h.6, h.7, h.8, h.9, h.10,
    fun Q h1 h2 h3 hq => by rw [State.evalDue, h.synced, h.clock]; exact h3 _ _ _ _ (h.11 Q h1 h2 h3 hq)⟩

theorem setQueue {q x} (h : QueueSide a s) : QueueSide a (s.setQueue q x) := ⟨h.1, h.2, h.3, h.4, h.5, h.6, h.7, h.8, h.9, h.10, h.11⟩

theorem setSlot {i x} (h : QueueSide a s) : QueueSide a (s.setSlot i x) := ⟨h.1, h.2, h.3, h.4, h.5, h.6, h.7, h.8, h.9, h.10, h.11⟩

theorem emptySlot {i} (h : QueueSide a s) : QueueSide a (s.emptySlot i) := ⟨h.1, h.2, h.3, h.4, h.5, h.6, h.7, h.8, h.9, h.10, h.11⟩

theorem setList {q l} (h : QueueSide a s) : QueueSide a (s.setList q l) := ⟨h.1, h.2, h.3, h.4, h.5, h.6, h.7, h.8, h.9, h.10,
    fun Q h1 h2 h3 hq => by
      have k := h2 s.notice q (s.queue q).config (s.queue q).queued l.length (h.11 Q h1 h2 h3 hq)
      rw [← h.clock, ← h.synced] at k; exact k⟩

theorem setCharge {q c} (h : QueueSide a s) : QueueSide a (s.setCharge q c) := ⟨h.1, h.2, h.3, h.4, h.5, h.6, h.7, h.8, h.9, h.10, h.11⟩

theorem chargeUp {q} (h : QueueSide a s) : QueueSide a (s.chargeUp q) := ⟨h.1, h.2, h.3, h.4, h.5, h.6, h.7, h.8, h.9, h.10, h.11⟩

theorem chargeDown {q} (h : QueueSide a s) : QueueSide a (s.chargeDown q) := ⟨h.1, h.2, h.3, h.4, h.5, h.6, h.7, h.8, h.9, h.10, h.11⟩

theorem countQueue {q f} (h : QueueSide a s) : QueueSide a (s.countQueue q f) := ⟨h.1, h.2, h.3, h.4, h.5, h.6, h.7, h.8, h.9, h.10, h.11⟩

theorem freeRecord {r} (h : QueueSide a s) : QueueSide a (s.freeRecord r) :=
  h.trans ⟨rfl, rfl, rfl, rfl, rfl, rfl, Nat.le_add_right _ _, Nat.le_add_right _ _, rfl, rfl, fun _ _ _ _ h => h⟩

theorem storeLowTest (h : QueueSide a s) : QueueSide a s.storeLowTest := by
  unfold State.storeLowTest; split
  · exact h.trans ⟨rfl, rfl, rfl, rfl, rfl, rfl, le_refl _, le_refl _, rfl, rfl, fun _ h1 _ _ hq => h1 _ _ _ hq⟩
  · exact h

theorem enqueue {q b r} (h : QueueSide a s) : QueueSide a (s.enqueue q b r) := by
  unfold State.enqueue; exact .countQueue (.chargeUp (.setList (.setQueue h)))

theorem refuseFull {q r} (h : QueueSide a s) : QueueSide a (s.refuseFull q r) := by
  unfold State.refuseFull; exact .raise (.countQueue (.freeRecord h))

theorem evictHead {q r l} (h : QueueSide a s) : QueueSide a (s.evictHead q r l) := by
  unfold State.evictHead; exact .countQueue (.freeRecord (.chargeDown (.setList h)))

theorem offer {q b r} (h : QueueSide a s) : QueueSide a (s.offer q b r) := by
  unfold State.offer; dsimp only; split
  · exact .enqueue h
  · split
    · exact .raise (.enqueue (.evictHead h))
    · exact .refuseFull h
    · exact .refuseFull h

theorem requeue {q r} (h : QueueSide a s) : QueueSide a (s.requeue q r) := by
  unfold State.requeue; exact .countQueue (.setList h)

theorem dropRecord {q r} (h : QueueSide a s) : QueueSide a (s.dropRecord q r) := by
  unfold State.dropRecord; exact .countQueue (.chargeDown (.freeRecord h))

theorem spillRecord {p q r} (h : QueueSide a s) : QueueSide a (s.spillRecord p q r) := by
  unfold State.spillRecord; split
  · exact .offer (.countQueue (.chargeDown h))
  · exact .dropRecord h

theorem comeBack {q r} (h : QueueSide a s) : QueueSide a (s.comeBack q r) := by
  unfold State.comeBack; dsimp only; split
  · split
    · exact .spillRecord h
    · exact .dropRecord h
  · exact .requeue h

theorem claimHead {q r l i} (h : QueueSide a s) : QueueSide a (s.claimHead q r l i).1 := by
  unfold State.claimHead; dsimp only; exact .countQueue (.setSlot (.setList h))

theorem takeHead {q r l} (h : QueueSide a s) : QueueSide a (s.takeHead q r l).1 := by
  unfold State.takeHead; dsimp only; exact .countQueue (.freeRecord (.chargeDown (.setList h)))

theorem deliverHead {m q u x} (h : QueueSide a s) (hd : s.deliverHead m q u = some x) : QueueSide a x.1 := by
  unfold State.deliverHead at hd; split at hd
  · cases hd
  · split at hd
    · cases hd
    · split at hd
      · cases hf : s.freeSlot <;> simp only [hf, Option.map_none, Option.map_some, reduceCtorEq, Option.some.injEq] at hd
        subst hd; exact .claimHead h
      · cases hd; exact .takeHead h

theorem deliverMany {m q k u} (h : QueueSide a s) : QueueSide a (s.deliverMany m q k u).1 := by
  induction k generalizing s u with
  | zero => exact h
  | succ k ih =>
    unfold State.deliverMany; split
    · exact h
    · rename_i s' e hd; exact ih (.deliverHead h hd)

theorem fetchAct {b} (h : QueueSide a s) : QueueSide a (Machine.fetchAct b s).1 := by
  unfold Machine.fetchAct; split
  · exact h
  · split
    · exact h
    · exact .deliverMany h

theorem releaseHandle {x} (h : QueueSide a s) : QueueSide a (Machine.releaseHandle x s).1 := by
  unfold Machine.releaseHandle; split
  · exact h
  · dsimp only; exact .countQueue (.chargeDown (.emptySlot (.freeRecord h)))

theorem returnHandle {x} (h : QueueSide a s) : QueueSide a (Machine.returnHandle x s).1 := by
  unfold Machine.returnHandle; split
  · exact h
  · dsimp only; exact .comeBack (.countQueue (.emptySlot h))

theorem extendHandle {x} (h : QueueSide a s) : QueueSide a (Machine.extendHandle x s).1 := by
  unfold Machine.extendHandle; split
  · exact h
  · dsimp only; exact .setSlot h

theorem eachItem {ι} {act : ι → State → State × Byte} (ha : ∀ i s, QueueSide a s → QueueSide a (act i s).1) {l : List ι}
    (h : QueueSide a s) : QueueSide a (Machine.eachItem act l s).1 := by
  induction l generalizing s with
  | nil => exact h
  | cons i l ih => exact ih (ha i s h)

theorem settleAct {one} (ha : ∀ i s, QueueSide a s → QueueSide a (one i s).1) {b} (h : QueueSide a s) :
    QueueSide a (Machine.settleAct one b s).1 := by
  unfold Machine.settleAct; split
  · exact h
  · exact .eachItem ha h

theorem expireLease {i o} (h : QueueSide a s) : QueueSide a (s.expireLease i o) := by
  unfold State.expireLease; dsimp only; split
  · exact .dropRecord (.raise (.countQueue (.emptySlot h)))
  · exact .comeBack (.raise (.countQueue (.emptySlot h)))

theorem freeAll {rs} (h : QueueSide a s) : QueueSide a (s.freeAll rs) := by
  unfold State.freeAll
  induction rs generalizing s with
  | nil => exact h
  | cons r rs ih => exact ih (.freeRecord h)

theorem queuePurgeAct {b} (h : QueueSide a s) : QueueSide a (Machine.queuePurgeAct b s).1 := by
  unfold Machine.queuePurgeAct; split
  · exact h
  · dsimp only; exact .countQueue (.setCharge (.setList (.freeAll h)))

theorem queueConfigAct {b} (h : QueueSide a s) : QueueSide a (Machine.queueConfigAct b s).1 := by
  unfold Machine.queueConfigAct; split
  · exact h
  · dsimp only; split
    · exact h
    · dsimp only; exact .evalDue (.setQueue h)

theorem queueGetAct {b} (h : QueueSide a s) : QueueSide a (Machine.queueGetAct b s).1 := by
  unfold Machine.queueGetAct; split <;> exact h

end QueueSide

/-- NOTICE_ACK acts on the Notice Unit alone. -/
theorem noticeAckAct_eq (b : List Byte) (s : State) : (noticeAckAct b s).1 = { s with notice := (noticeAckAct b s).1.notice } := by
  unfold noticeAckAct; split
  · rfl
  · split
    · split <;> rfl
    · rfl

/-- A law that every item of a list keeps is kept by the list (R181). -/
theorem State.eachItem_keeps {P : State → Prop} {ι} {act : ι → State → State × Byte} (ha : ∀ i s, P s → P (act i s).1) {l : List ι} {s : State}
    (h : P s) : P (Machine.eachItem act l s).1 := by
  induction l generalizing s with
  | nil => exact h
  | cons i l ih => exact ih (ha i s h)

/-- The hand-over of an outcome keeps what changes of the Classifier and of the queues keep (R78 to R80). -/
theorem State.handOn_keeps {P : State → Prop} (hc : ∀ s c, P s → P { s with classifier := c }) (hq : ∀ s t, QueueSide s t → P s → P t)
    {s : State} (d r) (h : P s) : P (s.handOn d r) := by
  unfold State.handOn; split
  · exact hc _ _ (hq _ _ (.freeRecord (.refl s)) h)
  · split
    · exact hq _ _ (.offer (.refl _)) (hc s _ h)
    · exact hq _ _ (.countQueue (.refl _)) (hc _ _ (hq _ _ (.freeRecord (.refl s)) h))

end Sys2Proof.Machine
end

