-- ==== Sys2Proof/Laws/Credit.lean ====
section
/-! SUPPORT. The credit law (R7, R9), one lemma for each operation of a lane, and the windows those operations leave alone. -/

namespace Sys2Proof.Machine

/-- How R follows a change of one lane (R7). -/
theorem State.reserved_mapLane (s : State) (n : LaneId) (f : Lane → Lane) :
    (s.mapLane n f).reserved + (s.lane n).reservation = s.reserved + (f (s.lane n)).reservation := by
  match n with
  | 0 | 1 | 2 | 3 => simp [State.reserved, State.lane_mapLane]; omega

/-- A change of one lane that keeps its own law and does not raise its reservation keeps the law. -/
theorem CreditLaw.mapLane {s : State} (h : CreditLaw s) (n : LaneId) (f : Lane → Lane)
    (hl : (f (s.lane n)).CreditLaw) (hr : (f (s.lane n)).reservation ≤ (s.lane n).reservation) :
    CreditLaw (s.mapLane n f) := by
  obtain ⟨h1, h2, h3⟩ := h
  have := s.reserved_mapLane n f
  refine ⟨fun m => ?_, ?_, ?_⟩
  · rw [State.lane_mapLane]; split
    · exact hl
    · exact h1 m
  · simp only [State.mapLane_store]; omega
  · simp only [State.mapLane_store]; omega

/-- A law about lanes and store only. -/
theorem CreditLaw.of_eq {s t : State} (h : CreditLaw s) (hl : t.lanes = s.lanes)
    (hf : s.store.freeDescriptors ≤ t.store.freeDescriptors) (hb : s.store.freeBlocks ≤ t.store.freeBlocks) : CreditLaw t := by
  have e : ∀ n, t.lane n = s.lane n := fun n => by simp [State.lane, hl]
  have er : t.reserved = s.reserved := by simp [State.reserved, e]
  obtain ⟨h1, h2, h3⟩ := h
  exact ⟨fun n => e n ▸ h1 n, by omega, by omega⟩

/-- The session state, the window and the configuration are as before. -/
def Lane.SameWindow (l l' : Lane) : Prop := l'.state = l.state ∧ l'.e = l.e ∧ l'.limit = l.limit ∧ l'.config = l.config

theorem Lane.SameWindow.trans {a b c : Lane} (h : a.SameWindow b) (k : b.SameWindow c) : a.SameWindow c :=
  ⟨k.1.trans h.1, k.2.1.trans h.2.1, k.2.2.1.trans h.2.2.1, k.2.2.2.trans h.2.2.2⟩

theorem Lane.SameWindow.reservation {l l' : Lane} (h : l.SameWindow l') : l'.reservation = l.reservation := by
  simp [Lane.reservation, h.2.1, h.2.2.1]

theorem Lane.SameWindow.inSession {l l' : Lane} (h : l.SameWindow l') : l'.inSession = l.inSession := by
  simp [Lane.inSession, h.1]

theorem Lane.SameWindow.creditLaw {l l' : Lane} (h : l.SameWindow l') (k : l.CreditLaw) : l'.CreditLaw := by
  simpa [Lane.CreditLaw, h.reservation, h.inSession, h.2.2.2] using k

namespace Lane

theorem sw_makeDue (f : LaneFrame) (l : Lane) : l.SameWindow (l.makeDue f) := by
  unfold makeDue; split <;> exact ⟨rfl, rfl, rfl, rfl⟩

theorem sw_dueProbe (k : Fin 4) (l : Lane) : l.SameWindow (l.dueProbe k) := by
  unfold dueProbe; split
  · exact ⟨rfl, rfl, rfl, rfl⟩
  · exact sw_makeDue _ _

theorem sw_dueCredit (now : Nat) (l : Lane) : l.SameWindow (l.dueCredit now) := by
  unfold dueCredit; dsimp only; split
  · exact ⟨rfl, rfl, rfl, rfl⟩
  · exact SameWindow.trans (b := { l with lastSent := l.limit, timers := { l.timers with refresh := some (now + 50000) } }) ⟨rfl, rfl, rfl, rfl⟩ (sw_makeDue _ _)

theorem sw_refl (l : Lane) : l.SameWindow l := ⟨rfl, rfl, rfl, rfl⟩

theorem sw_testE (now : Nat) (l : Lane) : l.SameWindow (l.testCreditAfterE now) := by
  unfold testCreditAfterE; split
  · exact sw_dueCredit _ _
  · exact sw_refl l

theorem sw_testGrant (now : Nat) (l : Lane) : l.SameWindow (l.testCreditAfterGrant now) := by
  unfold testCreditAfterGrant; split
  · exact sw_dueCredit _ _
  · exact sw_refl l

theorem sw_goodFrame (now : Nat) (l : Lane) : l.SameWindow (l.goodFrame now) := by
  unfold goodFrame restartSilence; split <;> exact ⟨rfl, rfl, rfl, rfl⟩

theorem sw_count (f) (l : Lane) : l.SameWindow (l.count f) := ⟨rfl, rfl, rfl, rfl⟩

theorem sw_restartProbe (l : Lane) : l.SameWindow l.restartProbe := by
  unfold restartProbe
  exact SameWindow.trans (b := { l with awaited := 0, timers := { l.timers with probeInterval := none }, counters := { l.counters with probeRetries := bump l.counters.probeRetries } }) ⟨rfl, rfl, rfl, rfl⟩ (sw_dueProbe _ _)

theorem sw_frameSent (now : Nat) (l : Lane) : l.SameWindow (l.frameSent now) := by
  unfold frameSent; split
  · exact sw_refl l
  · dsimp only; split <;> exact ⟨rfl, rfl, rfl, rfl⟩

theorem sw_dropWaiting (l : Lane) : l.SameWindow l.dropWaiting := ⟨rfl, rfl, rfl, rfl⟩

theorem reservation_closed (e : Half) : (e - 1 - e + 1 : Half) = 0 := by
  have : e - 1 - e + 1 = (0 : Half) := by ring
  exact this

/-- A lane that has ended holds no reservation (R15, R38). -/
theorem toDown_reservation (l : Lane) : l.toDown.reservation = 0 := by
  show ((l.e - 1) - l.e + 1 : Half).toNat = 0
  rw [reservation_closed]; rfl

theorem toDown_credit {l : Lane} (h : l.CreditLaw) : l.toDown.CreditLaw := by
  have := toDown_reservation l
  exact ⟨h.1, h.2.1, fun _ => by omega, fun _ => this⟩

/-- Entry to PROBING leaves the window alone. -/
theorem enterProbing_window (now : Nat) (l : Lane) : (l.enterProbing now).reservation = l.reservation ∧ (l.enterProbing now).config = l.config ∧ (l.enterProbing now).inSession = false := by
  unfold enterProbing
  have := sw_dueProbe 0 ({ l with
     state := .probing
     awaited := 0
     consecutiveBad := 0
     pendingMissing := 0
     timers := { LaneTimers.stopped with probeWindow := some (now + 1000 * l.config.probeWindow) } } : Lane)
  exact ⟨this.reservation, this.2.2.2, this.inSession.trans rfl⟩
end Lane

/-- A change that leaves every window alone keeps the law. -/
theorem CreditLaw.mapSame {s : State} (h : CreditLaw s) (n : LaneId) (f : Lane → Lane) (hf : ∀ l : Lane, l.SameWindow (f l)) :
    CreditLaw (s.mapLane n f) := h.mapLane n f ((hf _).creditLaw (h.1 n)) (by rw [(hf _).reservation])

theorem CreditLaw.raise {s : State} (h : CreditLaw s) (k b) : CreditLaw (s.raise k b) := h.of_eq rfl (le_refl _) (le_refl _)

theorem CreditLaw.freeRecord {s : State} (h : CreditLaw s) (r) : CreditLaw (s.freeRecord r) :=
  h.of_eq rfl (by simp [State.freeRecord, Store.free]) (by simp [State.freeRecord, Store.free])

theorem CreditLaw.freeAssembly {s : State} (h : CreditLaw s) (r) : CreditLaw (s.freeAssembly r) := by
  unfold State.freeAssembly; split
  · exact CreditLaw.freeRecord h _
  · exact h

theorem State.freeAssembly_lane (s : State) (r) (n) : (s.freeAssembly r).lane n = s.lane n := by
  unfold State.freeAssembly; split <;> rfl

theorem CreditLaw.endSession {s : State} (h : CreditLaw s) (n) : CreditLaw (s.endSession n) := by
  refine (CreditLaw.freeAssembly h _).mapLane n _ ?_ ?_
  · exact Lane.toDown_credit ((CreditLaw.freeAssembly h _).1 n)
  · rw [Lane.toDown_reservation]; omega

theorem CreditLaw.closingEnd {s : State} (h : CreditLaw s) (n) : CreditLaw (s.closingEnd n) :=
  CreditLaw.raise (CreditLaw.endSession h n) _ _

theorem CreditLaw.checkWindow {s : State} (h : CreditLaw s) (n) : CreditLaw (s.checkWindow n) := by
  unfold State.checkWindow; dsimp only; split
  · exact CreditLaw.closingEnd h n
  · exact h

theorem CreditLaw.enterProbing {s : State} (h : CreditLaw s) (n) (now) (h0 : (s.lane n).inSession = false) :
    CreditLaw (s.mapLane n (Lane.enterProbing now)) := by
  obtain ⟨h1, h2, h3⟩ := Lane.enterProbing_window now (s.lane n)
  refine h.mapLane n _ ?_ (by omega)
  have := h.1 n
  simp only [Lane.CreditLaw, h1, h2, h3] at this ⊢
  exact ⟨this.1, this.2.1, by simp, fun _ => this.2.2.2 h0⟩

theorem State.endSession_lane (s : State) (n) : (s.endSession n).lane n = (s.lane n).toDown := by
  simp [State.endSession, State.freeAssembly_lane]

theorem CreditLaw.loseLane {s : State} (h : CreditLaw s) (n) : CreditLaw (s.loseLane n) := by
  unfold State.loseLane; dsimp only; split
  · apply CreditLaw.enterProbing (CreditLaw.raise (CreditLaw.endSession h n) _ _)
    rw [State.lane_raise, State.endSession_lane]; rfl
  · exact CreditLaw.raise (CreditLaw.endSession h n) _ _

theorem CreditLaw.badFrame {s : State} (h : CreditLaw s) (n) : CreditLaw (s.badFrame n) := by
  unfold State.badFrame; dsimp only; split
  · apply CreditLaw.loseLane; apply CreditLaw.mapSame h; intro l; exact ⟨rfl, rfl, rfl, rfl⟩
  · apply CreditLaw.mapSame h; intro l; exact ⟨rfl, rfl, rfl, rfl⟩

theorem CreditLaw.recordBad {s : State} (h : CreditLaw s) (n r) : CreditLaw (s.recordBad n r) := by
  unfold State.recordBad; dsimp only
  apply CreditLaw.checkWindow; apply CreditLaw.badFrame; apply CreditLaw.mapSame (CreditLaw.freeRecord h r); intro l; exact ⟨rfl, rfl, rfl, rfl⟩

theorem CreditLaw.protocolError {s : State} (h : CreditLaw s) (n) : CreditLaw (s.protocolError n) :=
  CreditLaw.mapSame h n _ fun l => (Lane.sw_goodFrame _ l).trans (Lane.sw_count _ _)

theorem CreditLaw.activate {s : State} (h : CreditLaw s) (n next) : CreditLaw (s.activate n next) := by
  refine CreditLaw.raise (h.mapLane n _ ?_ ?_) _ _
  all_goals dsimp only [Lane.dropWaiting]
  · have h0 : (next - 1 - next + 1 : Half).toNat = 0 := by rw [Lane.reservation_closed]; rfl
    refine ⟨(h.1 n).1, (h.1 n).2.1, fun _ => ?_, fun k => ?_⟩
    · show (next - 1 - next + 1 : Half).toNat ≤ _; omega
    · exact h0
  · show (next - 1 - next + 1 : Half).toNat ≤ _
    rw [Lane.reservation_closed]; simp

theorem CreditLaw.probeEcho {s : State} (h : CreditLaw s) (n i p x) : CreditLaw (s.probeEcho n i p x) := by
  have h' := CreditLaw.mapSame h n (Lane.goodFrame s.clock) (Lane.sw_goodFrame _)
  unfold State.probeEcho; dsimp only; split
  · split
    · exact CreditLaw.activate h' n x
    · exact CreditLaw.mapSame h' n _ fun l => Lane.SameWindow.trans (b := { l with awaited := l.awaited + 1, timers := { l.timers with probeInterval := none } }) ⟨rfl, rfl, rfl, rfl⟩ (Lane.sw_dueProbe _ _)
  · exact CreditLaw.mapSame h' n _ Lane.sw_restartProbe

theorem CreditLaw.closeFromSource {s : State} (h : CreditLaw s) (n) : CreditLaw (s.closeFromSource n) :=
  CreditLaw.closingEnd (CreditLaw.mapSame h n _ fun l => (Lane.sw_goodFrame _ l).trans (Lane.sw_makeDue _ _)) n
/-- The window moves to a later e within it. -/
theorem reservation_advance (L e x : Half) (h : (x - e).toNat ≤ (L - e + 1).toNat) (_h64 : (L - e + 1).toNat ≤ 64) :
    (L - x + 1).toNat = (L - e + 1).toNat - (x - e).toNat := by
  have : L - x + 1 = (L - e + 1) - (x - e) := by ring
  rw [this, BitVec.toNat_sub_of_le (by exact h)]

theorem CreditLaw.takeKeepalive {s : State} (h : CreditLaw s) (n x) : CreditLaw (s.takeKeepalive n x) := by
  have h' := CreditLaw.mapSame h n (Lane.goodFrame s.clock) (Lane.sw_goodFrame _)
  unfold State.takeKeepalive; dsimp only; split
  · rename_i hd
    apply CreditLaw.checkWindow
    have hc := h'.1 n
    have h64 : ((s.mapLane n (Lane.goodFrame s.clock)).lane n).reservation ≤ 64 := by
      rcases hs : ((s.mapLane n (Lane.goodFrame s.clock)).lane n).inSession with _ | _
      · have := hc.2.2.2 hs; omega
      · have := hc.2.2.1 hs; have := hc.2.1; omega
    generalize hm : (s.mapLane n (Lane.goodFrame s.clock)) = m at *
    have key : ((m.lane n).limit - x + 1 : Half).toNat ≤ (m.lane n).reservation := by
      have := reservation_advance (m.lane n).limit (m.lane n).e x hd.2 h64
      simp only [Lane.reservation]; omega
    refine h'.mapLane n _ ?_ ?_
    · refine (Lane.sw_testE _ _).creditLaw ?_
      refine ⟨hc.1, hc.2.1, fun hs => le_trans key (hc.2.2.1 hs), fun hs => ?_⟩
      have := hc.2.2.2 hs
      show ((m.lane n).limit - x + 1 : Half).toNat = 0
      omega
    · rw [(Lane.sw_testE _ _).reservation]; exact key
  · split
    · exact h'
    · exact CreditLaw.mapSame h' n _ (Lane.sw_count _)

theorem CreditLaw.laneGoodFrame {s : State} (h : CreditLaw s) (n k b) : CreditLaw (s.laneGoodFrame n k b) := by
  have hp := CreditLaw.protocolError h n
  have hg := CreditLaw.mapSame h n (Lane.goodFrame s.clock) (Lane.sw_goodFrame _)
  unfold State.laneGoodFrame; dsimp only
  repeat' split
  all_goals with_reducible first | exact h | exact hp | exact hg | exact CreditLaw.probeEcho h .. | exact CreditLaw.takeKeepalive h .. | exact CreditLaw.closeFromSource h .. | exact CreditLaw.closingEnd hg ..

theorem State.storeLowTest_store (s : State) : (s.storeLowTest).store.freeDescriptors = s.store.freeDescriptors ∧
    (s.storeLowTest).store.freeBlocks = s.store.freeBlocks := by
  unfold State.storeLowTest; split <;> exact ⟨rfl, rfl⟩

theorem State.storeLowTest_lanes (s : State) : (s.storeLowTest).lanes = s.lanes := by
  unfold State.storeLowTest; split <;> rfl

theorem State.reserved_congr {s t : State} (h : t.lanes = s.lanes) : t.reserved = s.reserved := by
  simp [State.reserved, State.lane, h]

/-- A header accepted after a gap of d, by the window test (R53). -/
theorem windowCase_accepts {e : Half} {w : Nat} {x : Half} {d : Nat}
    (h : windowCase e w x = .inOrder ∧ d = 0 ∨ windowCase e w x = .gap d) : d = (x - e).toNat ∧ d + 1 ≤ w := by
  unfold windowCase at h; dsimp only at h
  rcases h with ⟨h, rfl⟩ | h <;> split at h <;> rename_i h1
  · exact ⟨h1.1.symm, by omega⟩
  · split at h <;> [skip; split at h] <;> cases h
  · cases h
  · split at h <;> rename_i h2
    · cases h; exact ⟨rfl, by omega⟩
    · split at h <;> cases h

/-- A record holds at most four blocks (R6, R9). -/
theorem blocksFor_le {n : Nat} (h : n ≤ 240) : blocksFor n ≤ 4 := by unfold blocksFor; omega

/-- An accepted header takes 1 + d numbers from the window (R54, R55). -/
theorem accept_window (L e x : Half) (d : Nat) (hd : d = (x - e).toNat) (hw : d + 1 ≤ (L - e + 1).toNat) :
    (L - (x + 1) + 1).toNat = (L - e + 1).toNat - (d + 1) := by
  have h1 : L - (x + 1) + 1 = (L - e + 1) - ((x - e) + 1) := by ring
  have h2 : ((x - e) + 1 : Half).toNat = d + 1 := by
    rw [BitVec.toNat_add, ← hd]
    have := (L - e + 1).isLt
    show (d + 1) % 2 ^ 16 = d + 1
    omega
  rw [h1, BitVec.toNat_sub_of_le, h2]
  rw [BitVec.le_def, h2]; exact hw

/-- An accepted header: the numbers it consumes pay for the allocation (R9, R13). -/
theorem CreditLaw.acceptHeader {s : State} (h : CreditLaw s) (n hd d) (hp : hd.payloadLength.toNat ≤ 240)
    (hw : windowCase (s.lane n).e (s.lane n).reservation hd.seq = .inOrder ∧ d = 0 ∨
      windowCase (s.lane n).e (s.lane n).reservation hd.seq = .gap d) : CreditLaw (s.acceptHeader n hd d) := by
  obtain ⟨hdd, hle⟩ := windowCase_accepts hw
  have hres := accept_window (s.lane n).limit (s.lane n).e hd.seq d hdd hle
  unfold State.acceptHeader; dsimp only
  set f : Lane → Lane := fun l => ({ l with
       e := hd.seq + 1
       pendingMissing := 0
       assembly := some (acceptedRecord n hd (addMissing (s.lane n).pendingMissing d))
       counters := { l.counters with missingTotal := bumpBy d l.counters.missingTotal } } : Lane).testCreditAfterE s.clock with hf
  have hfr : (f (s.lane n)).reservation = (s.lane n).reservation - (d + 1) := by
    rw [hf]; dsimp only; rw [(Lane.sw_testE _ _).reservation]; exact hres
  have hfc : (f (s.lane n)).CreditLaw := by
    rw [hf]; refine (Lane.sw_testE _ _).creditLaw ?_
    have hc := h.1 n
    refine ⟨hc.1, hc.2.1, fun hs => ?_, fun hs => ?_⟩
    · have := hc.2.2.1 hs
      show (_ - _ + _ : Half).toNat ≤ _
      dsimp only; unfold Lane.reservation at this; omega
    · have := hc.2.2.2 hs
      show (_ - _ + _ : Half).toNat = _
      dsimp only; unfold Lane.reservation at this; omega
  have hres' := s.reserved_mapLane n f
  obtain ⟨h1, h2, h3⟩ := h
  unfold State.allocate
  have hb := blocksFor_le hp
  have hRn : (s.lane n).reservation ≤ s.reserved := by
    clear hres' hfr hfc
    match n with
    | 0 | 1 | 2 | 3 => simp only [State.reserved]; omega
  refine ⟨fun m => ?_, ?_, ?_⟩
  · unfold State.lane; rw [State.storeLowTest_lanes]
    show ((s.mapLane n f).lane m).CreditLaw
    rw [State.lane_mapLane]; split
    · exact hfc
    · exact h1 m
  · rw [(State.storeLowTest_store _).1, State.reserved_congr (State.storeLowTest_lanes _)]
    show (s.mapLane n f).reserved ≤ s.store.freeDescriptors - 1
    omega
  · rw [(State.storeLowTest_store _).2, State.reserved_congr (State.storeLowTest_lanes _)]
    show 4 * (s.mapLane n f).reserved ≤ s.store.freeBlocks - blocksFor hd.payloadLength.toNat
    omega

theorem CreditLaw.setClassifier {s : State} (h : CreditLaw s) (c) : CreditLaw { s with classifier := c } :=
  h.of_eq rfl (le_refl _) (le_refl _)

theorem CreditLaw.receiveRecord {s : State} (h : CreditLaw s) (n a b c) : CreditLaw (s.receiveRecord n a b c) := by
  apply CreditLaw.mapSame h; intro l; exact ⟨rfl, rfl, rfl, rfl⟩

theorem CreditLaw.headerDecision {s : State} (h : CreditLaw s) (n b c hd k) : CreditLaw (s.headerDecision n b c hd k) := by
  unfold State.headerDecision; dsimp only; split
  · apply CreditLaw.badFrame; exact CreditLaw.mapSame h n _ (Lane.sw_count _)
  · have h' := CreditLaw.receiveRecord h n c (b - 11) true
    split
    · exact CreditLaw.mapSame h' n _ (Lane.sw_count _)
    · rename_i hp
      have hp : hd.payloadLength.toNat ≤ 240 := by omega
      split
      · exact CreditLaw.acceptHeader h' n hd 0 hp (.inl ⟨‹_›, rfl⟩)
      · exact CreditLaw.acceptHeader h' n hd _ hp (.inr ‹_›)
      · exact CreditLaw.mapSame h' n _ (Lane.sw_count _)
      · exact CreditLaw.mapSame h' n _ (Lane.sw_count _)

theorem CreditLaw.recordGood {s : State} (h : CreditLaw s) (n r) : CreditLaw (s.recordGood n r) := by
  unfold State.recordGood; dsimp only
  apply CreditLaw.checkWindow
  refine CreditLaw.setClassifier ?_ _
  refine CreditLaw.mapSame h n _ fun l => ?_
  refine Lane.SameWindow.trans ?_ (Lane.sw_count _ _)
  exact Lane.SameWindow.trans (b := { l with assembly := none, receiver := .hunting }) ⟨rfl, rfl, rfl, rfl⟩ (Lane.sw_goodFrame _ _)

theorem CreditLaw.frameEnd {s : State} (h : CreditLaw s) (n a g) : CreditLaw (s.frameEnd n a g) := by
  unfold State.frameEnd; dsimp only
  split
  · have h' : CreditLaw (s.mapLane n fun l => { l with receiver := .hunting }) := by
      apply CreditLaw.mapSame h; intro l; exact ⟨rfl, rfl, rfl, rfl⟩
    split
    · exact CreditLaw.mapSame h' n _ (Lane.sw_goodFrame _)
    · exact CreditLaw.protocolError h' n
  · exact CreditLaw.badFrame h n

theorem CreditLaw.shortRecordEnd {s : State} (h : CreditLaw s) (n g) : CreditLaw (s.shortRecordEnd n g) := by
  unfold State.shortRecordEnd
  split
  · split
    · exact CreditLaw.mapSame h n _ fun l => (Lane.sw_goodFrame _ l).trans (Lane.sw_count _ _)
    · exact CreditLaw.protocolError h n
  · exact CreditLaw.badFrame h n

theorem CreditLaw.laneFrameFails {s : State} (h : CreditLaw s) (n) : CreditLaw (s.laneFrameFails n) := by
  unfold State.laneFrameFails; split
  · exact CreditLaw.recordBad h n _
  · exact CreditLaw.badFrame h n

/-- Who a credit goes to, and that there is room (R10). -/
theorem State.grantee_eligible {s : State} {n} (h : s.grantee = some n) : s.creditRoom = true ∧ (s.lane n).eligible = true := by
  unfold State.grantee at h; split at h
  · rename_i hr; have := List.find?_some h; exact ⟨hr, this⟩
  · cases h

/-- A grant is made only when there is room (R10). -/
theorem CreditLaw.grant {s : State} (h : CreditLaw s) : CreditLaw s.grant := by
  unfold State.grant; split
  · rename_i n hn
    obtain ⟨hr, he⟩ := State.grantee_eligible hn
    simp only [State.creditRoom, Bool.and_eq_true, decide_eq_true_eq] at hr
    simp only [Lane.eligible, Bool.and_eq_true, decide_eq_true_eq] at he
    unfold State.grantTo; dsimp only
    set f : Lane → Lane := fun l => ({ l with limit := l.limit + 1 } : Lane).testCreditAfterGrant s.clock with hf
    obtain ⟨h1, h2, h3⟩ := h
    have hc := h1 n
    have hw : ((s.lane n).limit + 1 - (s.lane n).e + 1 : Half).toNat = (s.lane n).reservation + 1 := by
      have : ((s.lane n).limit + 1 - (s.lane n).e + 1 : Half) = ((s.lane n).limit - (s.lane n).e + 1) + 1 := by ring
      rw [this, BitVec.toNat_add]
      have h2 := he.2; have h3 := hc.2.1
      unfold Lane.reservation at h2 ⊢
      show (_ + 1) % 2 ^ 16 = _
      omega
    have hfr : (f (s.lane n)).reservation = (s.lane n).reservation + 1 := by
      rw [hf]; dsimp only; rw [(Lane.sw_testGrant _ _).reservation]; exact hw
    have hfc : (f (s.lane n)).CreditLaw := by
      rw [hf]; refine (Lane.sw_testGrant _ _).creditLaw ?_
      refine ⟨hc.1, hc.2.1, fun hs => ?_, fun hs => ?_⟩
      · show (_ - _ + _ : Half).toNat ≤ _
        dsimp only; have := he.2; omega
      · simp only [Lane.inSession, he.1] at hs; simp at hs
    have := s.reserved_mapLane n f
    refine ⟨fun m => ?_, ?_, ?_⟩
    · show ((s.mapLane n f).lane m).CreditLaw
      rw [State.lane_mapLane]; split
      · exact hfc
      · exact h1 m
    · show (s.mapLane n f).reserved ≤ s.store.freeDescriptors; omega
    · show 4 * (s.mapLane n f).reserved ≤ s.store.freeBlocks; omega
  · exact h

theorem CreditLaw.grantMany {s : State} (h : CreditLaw s) (k) : CreditLaw (s.grantMany k) := by
  induction k generalizing s with
  | zero => exact h
  | succ k ih => exact ih (CreditLaw.grant h)

theorem QueueSide.creditLaw {s t : State} (h : QueueSide s t) (k : CreditLaw s) : CreditLaw t :=
  k.of_eq h.lanes h.freeDescriptors h.freeBlocks

/-- LANE_CONFIG takes values in their ranges alone (R25). -/
theorem laneConfigArg_inRange {b ls c} (h : laneConfigArg b = some (ls, c)) : c.inRange = true := by
  unfold laneConfigArg at h; split at h
  · dsimp only at h; split at h
    · rename_i h1; cases h; simp only [Bool.and_eq_true] at h1; exact h1.1.2
    · cases h
  · cases h

theorem LaneConfig.inRange_cap {c : LaneConfig} (h : c.inRange = true) : 1 ≤ c.creditCap ∧ c.creditCap ≤ 64 := by
  simp only [LaneConfig.inRange, Bool.and_eq_true, decide_eq_true_eq] at h; omega

/-- Lanes none of which is busy are in no session. -/
theorem busyLane_none {s : State} {ls : List LaneId} (h : s.busyLane ls = none) : ∀ n ∈ ls, (s.lane n).inSession = false := by
  intro n hn
  have := List.find?_eq_none.1 h n hn
  simp only [decide_eq_true_eq, not_or] at this
  simp [Lane.inSession, this.2.1, this.2.2]

theorem CreditLaw.foldl {ls : List LaneId} {f : LaneId → Lane → Lane} (hf : ∀ (l : Lane) n, l.inSession = false → l.CreditLaw →
      (f n l).CreditLaw ∧ (f n l).reservation ≤ l.reservation ∧ (f n l).inSession = false) {s : State} (h : CreditLaw s)
    (hs : ∀ n ∈ ls, (s.lane n).inSession = false) : CreditLaw (ls.foldl (fun s n => s.mapLane n (f n)) s) := by
  induction ls generalizing s with
  | nil => exact h
  | cons n ls ih =>
    have hn := hf (s.lane n) n (hs n (by simp)) (h.1 n)
    refine ih (s := s.mapLane n (f n)) (h.mapLane n _ hn.1 hn.2.1) fun m hm => ?_
    rw [State.lane_mapLane]; split
    · exact hn.2.2
    · exact hs m (by simp [hm])

theorem CreditLaw.laneConfigAct {s : State} (h : CreditLaw s) (b) : CreditLaw (Machine.laneConfigAct b s).1 := by
  unfold Machine.laneConfigAct; split
  · exact h
  · rename_i ls c hc
    have hr := LaneConfig.inRange_cap (laneConfigArg_inRange hc)
    split
    · exact h
    · rename_i hb
      refine CreditLaw.foldl (f := fun _ l => { l with config := c }) ?_ h (busyLane_none hb)
      intro l n hs hl
      exact ⟨⟨hr.1, hr.2, fun k => absurd (hs.symm.trans k) (by simp), fun _ => hl.2.2.2 hs⟩, le_refl _, hs⟩

/-- A change of several lanes reads one clock. -/
theorem State.foldl_clock {ls : List LaneId} {s : State} (g : Nat → Lane → Lane) :
    ls.foldl (fun s n => s.mapLane n (g s.clock)) s = ls.foldl (fun t n => t.mapLane n (g s.clock)) s := by
  induction ls generalizing s with
  | nil => rfl
  | cons n ls ih => simp only [List.foldl_cons]; rw [ih]; rfl

theorem CreditLaw.laneOpenAct {s : State} (h : CreditLaw s) (b) : CreditLaw (Machine.laneOpenAct b s).1 := by
  unfold Machine.laneOpenAct; split
  · exact h
  · split
    · exact h
    · rename_i hb
      dsimp only
      rw [State.foldl_clock]
      refine CreditLaw.foldl (f := fun _ l => l.enterProbing s.clock) ?_ h (busyLane_none hb)
      intro l n hs hl
      obtain ⟨h1, h2, h3⟩ := Lane.enterProbing_window s.clock l
      refine ⟨?_, by omega, h3⟩
      simp only [Lane.CreditLaw, h1, h2, h3] at hl ⊢
      exact ⟨hl.1, hl.2.1, by simp, fun _ => hl.2.2.2 hs⟩

theorem CreditLaw.enterClosing {s : State} (h : CreditLaw s) (n) (ha : (s.lane n).state = .active) : CreditLaw (s.enterClosing n) := by
  unfold State.enterClosing
  apply CreditLaw.checkWindow
  set l' : Lane := (({ s.lane n with
        state := .closing
        lastSent := (s.lane n).limit
        timers := { (s.lane n).timers with refresh := none, close := some (s.clock + 1000 * (s.lane n).config.closeTimeout) } } :
        Lane).dropWaiting) with hl'
  have hw := Lane.sw_makeDue (.close (s.lane n).limit) l'
  have hc := h.1 n
  have hsess : (s.lane n).inSession = true := by simp [Lane.inSession, ha]
  refine h.mapLane n _ (hw.creditLaw ?_) (by rw [hw.reservation]; exact le_refl _)
  refine ⟨hc.1, hc.2.1, fun _ => hc.2.2.1 hsess, fun k => ?_⟩
  have : l'.inSession = true := rfl
  rw [this] at k; cases k

theorem CreditLaw.closeLane {s : State} (h : CreditLaw s) (n) : CreditLaw (Machine.closeLane n s).1 := by
  unfold Machine.closeLane; split <;> dsimp only
  · exact CreditLaw.enterClosing h n ‹_›
  · exact CreditLaw.endSession h n
  · exact h
  · exact h
  · exact h

theorem CreditLaw.abortLane {s : State} (h : CreditLaw s) (n) : CreditLaw (Machine.abortLane n s).1 := by
  unfold Machine.abortLane; dsimp only; split
  · exact h
  · have h' : CreditLaw ((s.endSession n).mapLane n fun l => { l with waiting := [] }) := by
      apply CreditLaw.mapSame (CreditLaw.endSession h n); intro l; exact ⟨rfl, rfl, rfl, rfl⟩
    dsimp only; split
    · exact CreditLaw.raise h' _ _
    · exact h'

end Sys2Proof.Machine
end

