-- ==== Sys2Proof/Laws/LaneSide.lean ====
section
/-! SUPPORT. What the operations of a Lane Controller leave alone: one relation, one lemma for each operation. -/

namespace Sys2Proof.Machine

/-- What an operation of a Lane Controller, the Record Store or the Notice Unit's alert set leaves of the part; the Classifier
may be handed a record. -/
structure LaneSide (s t : State) : Prop where
  pending : t.pending = s.pending
  running : t.running = s.running
  clock : t.clock = s.clock
  queues : t.queues = s.queues
  slots : t.slots = s.slots
  link : t.link = s.link
  levels : t.notice.levels = s.notice.levels
  pendingCommit : t.classifier.pendingCommit = s.classifier.pendingCommit
  staging : t.classifier.staging = s.classifier.staging
  active : t.classifier.active = s.classifier.active
  generation : t.classifier.generation = s.classifier.generation
  walk : s.classifier.walk.isSome = true → t.classifier.walk = s.classifier.walk
  /-- The Notice Unit sees raises alone. -/
  notice : ∀ Q : Notice → Prop, (∀ n k x, Q n → Q (n.raise k x s.synced)) → Q s.notice → Q t.notice

theorem Notice.raise_levels (k b y) (n : Notice) : (n.raise k b y).levels = n.levels := by
  unfold Notice.raise Notice.request Notice.markDirty; dsimp only; split
  · split <;> rfl
  · rfl
  · split <;> rfl

namespace LaneSide

theorem refl (s : State) : LaneSide s s := ⟨rfl, rfl, rfl, rfl, rfl, rfl, rfl, rfl, rfl, rfl, rfl, fun _ => rfl, fun _ _ h => h⟩

variable {a s : State}

theorem mapLane {n f} (h : LaneSide a s) : LaneSide a (s.mapLane n f) := ⟨h.1, h.2, h.3, h.4, h.5, h.6, h.7, h.8, h.9, h.10, h.11, h.12, h.13⟩

theorem recordBytes {n b} (h : LaneSide a s) : LaneSide a (s.recordBytes n b) := mapLane h

theorem setStore {st} (h : LaneSide a s) : LaneSide a { s with store := st } := ⟨h.1, h.2, h.3, h.4, h.5, h.6, h.7, h.8, h.9, h.10, h.11, h.12, h.13⟩

theorem raise {k b} (h : LaneSide a s) : LaneSide a (s.raise k b) :=
  ⟨h.1, h.2, h.3, h.4, h.5, h.6, (Notice.raise_levels _ _ _ _).trans h.7, h.8, h.9, h.10, h.11, h.12,
    fun Q hr hq => by rw [State.raise, State.synced, h.6]; exact hr _ _ _ (h.13 Q hr hq)⟩

theorem freeRecord {r} (h : LaneSide a s) : LaneSide a (s.freeRecord r) := setStore h

theorem freeAssembly {r} (h : LaneSide a s) : LaneSide a (s.freeAssembly r) := by
  unfold State.freeAssembly; split
  · exact .freeRecord h
  · exact h

theorem storeLowTest (h : LaneSide a s) : LaneSide a s.storeLowTest := by
  unfold State.storeLowTest; split
  · exact .raise (.setStore h)
  · exact h

theorem allocate {r} (h : LaneSide a s) : LaneSide a (s.allocate r) := by
  unfold State.allocate; exact .storeLowTest (.setStore h)

theorem endSession {n} (h : LaneSide a s) : LaneSide a (s.endSession n) := by
  unfold State.endSession; exact .mapLane (.freeAssembly h)

theorem closingEnd {n} (h : LaneSide a s) : LaneSide a (s.closingEnd n) := by
  unfold State.closingEnd; exact .raise (.endSession h)

theorem checkWindow {n} (h : LaneSide a s) : LaneSide a (s.checkWindow n) := by
  unfold State.checkWindow; dsimp only; split
  · exact .closingEnd h
  · exact h

theorem loseLane {n} (h : LaneSide a s) : LaneSide a (s.loseLane n) := by
  unfold State.loseLane; dsimp only; split
  · exact .mapLane (.raise (.endSession h))
  · exact .raise (.endSession h)

theorem badFrame {n} (h : LaneSide a s) : LaneSide a (s.badFrame n) := by
  unfold State.badFrame; dsimp only; split
  · exact .loseLane (.mapLane h)
  · exact .mapLane h

theorem recordBad {n r} (h : LaneSide a s) : LaneSide a (s.recordBad n r) := by
  unfold State.recordBad; dsimp only; exact .checkWindow (.badFrame (.mapLane (.freeRecord h)))

theorem laneFrameFails {n} (h : LaneSide a s) : LaneSide a (s.laneFrameFails n) := by
  unfold State.laneFrameFails; split
  · exact .recordBad h
  · exact .badFrame h

theorem protocolError {n} (h : LaneSide a s) : LaneSide a (s.protocolError n) := by
  unfold State.protocolError; exact .mapLane h

theorem activate {n x} (h : LaneSide a s) : LaneSide a (s.activate n x) := by
  unfold State.activate; exact .raise (.mapLane h)

theorem probeEcho {n i p x} (h : LaneSide a s) : LaneSide a (s.probeEcho n i p x) := by
  unfold State.probeEcho; dsimp only; split
  · split
    · exact .activate (.mapLane h)
    · exact .mapLane (.mapLane h)
  · exact .mapLane (.mapLane h)

theorem closeFromSource {n} (h : LaneSide a s) : LaneSide a (s.closeFromSource n) := by
  unfold State.closeFromSource; dsimp only; exact .closingEnd (.mapLane h)

theorem takeKeepalive {n x} (h : LaneSide a s) : LaneSide a (s.takeKeepalive n x) := by
  unfold State.takeKeepalive; dsimp only; split
  · exact .checkWindow (.mapLane (.mapLane h))
  · split
    · exact .mapLane h
    · exact .mapLane (.mapLane h)

theorem laneGoodFrame {n k b} (h : LaneSide a s) : LaneSide a (s.laneGoodFrame n k b) := by
  unfold State.laneGoodFrame; dsimp only
  repeat' split
  all_goals with_reducible
    first
    | exact h
    | exact .protocolError h
    | exact .probeEcho h
    | exact .takeKeepalive h
    | exact .closeFromSource h
    | exact .closingEnd (.mapLane h)
    | exact .mapLane h

theorem acceptHeader {n x d} (h : LaneSide a s) : LaneSide a (s.acceptHeader n x d) := by
  unfold State.acceptHeader; dsimp only; exact .allocate (.mapLane h)

theorem receiveRecord {n c r b} (h : LaneSide a s) : LaneSide a (s.receiveRecord n c r b) := by
  unfold State.receiveRecord; exact .mapLane h

theorem headerDecision {n b c x k} (h : LaneSide a s) : LaneSide a (s.headerDecision n b c x k) := by
  unfold State.headerDecision; dsimp only; split
  · exact .badFrame (.mapLane h)
  · split
    · exact .mapLane (.receiveRecord h)
    · split
      · exact .acceptHeader (.receiveRecord h)
      · exact .acceptHeader (.receiveRecord h)
      · exact .mapLane (.receiveRecord h)
      · exact .mapLane (.receiveRecord h)

theorem join {now r} (h : LaneSide a s) : LaneSide a { s with classifier := s.classifier.join now r } := by
  refine ⟨h.1, h.2, h.3, h.4, h.5, h.6, h.7, ?_, ?_, ?_, ?_, fun hw => ?_, h.13⟩
  · rw [← h.8]; unfold Classifier.join Classifier.beginWalk; dsimp only; split <;> [rfl; split <;> rfl]
  · rw [← h.9]; unfold Classifier.join Classifier.beginWalk; dsimp only; split <;> [rfl; split <;> rfl]
  · rw [← h.10]; unfold Classifier.join Classifier.beginWalk; dsimp only; split <;> [rfl; split <;> rfl]
  · rw [← h.11]; unfold Classifier.join Classifier.beginWalk; dsimp only; split <;> [rfl; split <;> rfl]
  · have hs : s.classifier.walk.isSome = true := by rw [h.12 hw]; exact hw
    rw [← h.12 hw]; unfold Classifier.join; dsimp only; rw [if_pos hs]

theorem recordGood {n r} (h : LaneSide a s) : LaneSide a (s.recordGood n r) := by
  unfold State.recordGood; dsimp only; exact .checkWindow (.join (.mapLane h))

theorem frameEnd {n b g} (h : LaneSide a s) : LaneSide a (s.frameEnd n b g) := by
  unfold State.frameEnd; dsimp only; split
  · split
    · exact .mapLane (.mapLane h)
    · exact .protocolError (.mapLane h)
  · exact .badFrame h

theorem shortRecordEnd {n g} (h : LaneSide a s) : LaneSide a (s.shortRecordEnd n g) := by
  unfold State.shortRecordEnd; split
  · split
    · exact .mapLane h
    · exact .protocolError h
  · exact .badFrame h

theorem grant (h : LaneSide a s) : LaneSide a s.grant := by
  unfold State.grant; split
  · unfold State.grantTo; dsimp only; exact .setStore (.mapLane h)
  · exact h

theorem grantMany {k} (h : LaneSide a s) : LaneSide a (s.grantMany k) := by
  induction k generalizing s with
  | zero => exact h
  | succ k ih => exact ih (.grant h)

theorem foldMap {ls : List LaneId} {f : State → LaneId → Lane → Lane} (h : LaneSide a s) :
    LaneSide a (ls.foldl (fun s n => s.mapLane n (f s n)) s) := by
  induction ls generalizing s with
  | nil => exact h
  | cons n ls ih => exact ih (.mapLane h)

theorem laneConfigAct {b} (h : LaneSide a s) : LaneSide a (Machine.laneConfigAct b s).1 := by
  unfold Machine.laneConfigAct; split
  · exact h
  · split
    · exact h
    · exact .foldMap h

theorem laneOpenAct {b} (h : LaneSide a s) : LaneSide a (Machine.laneOpenAct b s).1 := by
  unfold Machine.laneOpenAct; split
  · exact h
  · split
    · exact h
    · exact .foldMap h

theorem enterClosing {n} (h : LaneSide a s) : LaneSide a (s.enterClosing n) := by
  unfold State.enterClosing; exact .checkWindow (.mapLane h)

theorem closeLane {n} (h : LaneSide a s) : LaneSide a (Machine.closeLane n s).1 := by
  unfold Machine.closeLane; split <;> dsimp only
  · exact .enterClosing h
  · exact .endSession h
  all_goals exact h

theorem abortLane {n} (h : LaneSide a s) : LaneSide a (Machine.abortLane n s).1 := by
  unfold Machine.abortLane; dsimp only; split
  · exact h
  · dsimp only; split
    · exact .raise (.mapLane (.endSession h))
    · exact .mapLane (.endSession h)

theorem eachLane {act : LaneId → State → State × Byte} (ha : ∀ n s, LaneSide a s → LaneSide a (act n s).1) {l}
    (h : LaneSide a s) : LaneSide a (Machine.eachItem act l s).1 := by
  induction l generalizing s with
  | nil => exact h
  | cons i l ih => exact ih (ha i s h)

theorem laneCloseAct {b} (h : LaneSide a s) : LaneSide a (Machine.laneCloseAct b s).1 := by
  unfold Machine.laneCloseAct; split
  · exact h
  · exact .eachLane (fun _ _ => .closeLane) h

theorem laneAbortAct {b} (h : LaneSide a s) : LaneSide a (Machine.laneAbortAct b s).1 := by
  unfold Machine.laneAbortAct; split
  · exact h
  · exact .eachLane (fun _ _ => .abortLane) h

theorem foldCheck {ls : List LaneId} (h : LaneSide a s) : LaneSide a (ls.foldl (fun s n => s.checkWindow n) s) := by
  induction ls generalizing s with
  | nil => exact h
  | cons n ls ih => exact ih (.checkWindow h)

theorem setWatermark {w} (h : LaneSide a s) : LaneSide a (s.setWatermark w) := by
  unfold State.setWatermark; dsimp only; split
  · exact .storeLowTest (.setStore h)
  · exact .setStore h

end LaneSide

end Sys2Proof.Machine
end

