-- ==== Sys2Proof/Laws/Levels.lean ====
section
/-! SUPPORT. The reported levels (R138, R139): one lemma for each operation that changes a queue or a level. -/

namespace Sys2Proof.Machine

theorem Notice.request_levels (b) (n : Notice) : (n.request b).levels = n.levels := by unfold Notice.request; split <;> rfl

theorem Notice.becameDue_levels (q b) (n : Notice) : (n.becameDue q b).levels = n.levels := by
  unfold Notice.becameDue; split
  · exact Notice.request_levels _ _
  · rfl
  · split <;> rfl

theorem Notice.evalDue_levels (q c k now b) (n : Notice) :
    (n.evalDue q c k now b).levels = n.levels.set q { n.levels[q] with due := isDue c k n.levels[q] now } := by
  unfold Notice.evalDue; dsimp only; split
  · rw [Notice.becameDue_levels]; rfl
  · rfl

theorem Notice.follow_level (q p : QueueId) (c o k now b) (n : Notice) :
    (n.follow q c o k now b).levels[p] = if q = p then { followLevel n.levels[q] o k now with due := isDue c k (followLevel n.levels[q] o k now) now } else n.levels[p] := by
  unfold Notice.follow
  rw [Notice.evalDue_levels, vector_set_get]
  split
  · rename_i h; subst h; simp [Notice.setLevel]
  · rename_i h; simp only [Notice.setLevel]; rw [vector_set_ne _ _ h]

theorem isDue_above {c k l now} (h : isDue c k l now = true) : l.reported < k := by
  unfold isDue at h; simp only [Bool.and_eq_true, decide_eq_true_eq] at h; exact h.1

/-- A queue's level agrees with a queued count (R138, R139). -/
abbrev Level.Agrees (l : Level) (k : Nat) : Prop :=
  l.reported ≤ k ∧ (l.since.isSome = true ↔ l.reported < k) ∧ (l.due = true → l.reported < k)

theorem Level.Agrees.evalDue {l : Level} {k : Nat} (h : l.Agrees k) (c now) : ({ l with due := isDue c k l now } : Level).Agrees k :=
  ⟨h.1, h.2.1, fun hd => isDue_above hd⟩

theorem Level.Agrees.follow {l : Level} {o : Nat} (h : l.Agrees o) (k now c) :
    ({ followLevel l o k now with due := isDue c k (followLevel l o k now) now } : Level).Agrees k := by
  obtain ⟨h1, h2, _⟩ := h
  refine ⟨?_, ?_, fun hd => isDue_above hd⟩
  · unfold followLevel; split
    · exact le_refl _
    · split <;> dsimp only <;> omega
  · unfold followLevel; split
    · simp
    · split
      · simp; omega
      · dsimp only; rw [h2]; constructor <;> intro <;> omega

namespace LevelLaw

theorem iff {s : State} : LevelLaw s ↔ ∀ q : QueueId, s.notice.levels[q].Agrees (s.queue q).queued := Iff.rfl
variable {s : State}

theorem of_eq {t : State} (h : LevelLaw s) (hq : t.queues = s.queues) (hn : t.notice.levels = s.notice.levels) : LevelLaw t := by
  intro q; have := h q; rw [hn]; simpa only [State.queue, hq] using this

theorem setQueue {q x} (h : LevelLaw s) (hx : x.list = (s.queue q).list) : LevelLaw (s.setQueue q x) := by
  intro p; rw [State.queue_setQueue]; split
  · rename_i e; subst e; have := h q; simp only [Queue.queued, hx] at this ⊢; exact this
  · exact h p

theorem setList {q l} (h : LevelLaw s) : LevelLaw (s.setList q l) := by
  intro p
  have e : (s.setList q l).notice.levels[p] = _ := Notice.follow_level q p (s.queue q).config (s.queue q).queued l.length s.clock s.synced s.notice
  have e2 : (s.setList q l).queue p = if q = p then { s.queue q with list := l } else s.queue p := State.queue_setQueue _ _ _ _
  rw [e, e2]; split
  · exact Level.Agrees.follow (h q) _ _ _
  · exact h p

theorem evalDue {q} (h : LevelLaw s) : LevelLaw (s.evalDue q) := by
  intro p
  have e : (s.evalDue q).notice.levels = _ := Notice.evalDue_levels q (s.queue q).config (s.queue q).queued s.clock s.synced s.notice
  show (s.evalDue q).notice.levels[p].Agrees (s.queue p).queued
  rw [e, vector_set_get]; split
  · rename_i e; subst e; exact Level.Agrees.evalDue (h q) _ _
  · exact h p

theorem setCharge {q c} (h : LevelLaw s) : LevelLaw (s.setCharge q c) := setQueue h rfl

theorem chargeUp {q} (h : LevelLaw s) : LevelLaw (s.chargeUp q) := setQueue h rfl

theorem chargeDown {q} (h : LevelLaw s) : LevelLaw (s.chargeDown q) := setQueue h rfl

theorem countQueue {q f} (h : LevelLaw s) : LevelLaw (s.countQueue q f) := setQueue h rfl

theorem raise {k b} (h : LevelLaw s) : LevelLaw (s.raise k b) := of_eq h rfl (Notice.raise_levels _ _ _ _)

theorem freeRecord {r} (h : LevelLaw s) : LevelLaw (s.freeRecord r) := of_eq h rfl rfl

theorem emptySlot {i} (h : LevelLaw s) : LevelLaw (s.emptySlot i) := of_eq h rfl rfl

theorem setSlot {i x} (h : LevelLaw s) : LevelLaw (s.setSlot i x) := of_eq h rfl rfl

theorem enqueue {q b r} (h : LevelLaw s) : LevelLaw (s.enqueue q b r) := by
  unfold State.enqueue; exact .countQueue (.chargeUp (.setList (.setQueue h rfl)))

theorem refuseFull {q r} (h : LevelLaw s) : LevelLaw (s.refuseFull q r) := by
  unfold State.refuseFull; exact .raise (.countQueue (.freeRecord h))

theorem evictHead {q r l} (h : LevelLaw s) : LevelLaw (s.evictHead q r l) := by
  unfold State.evictHead; exact .countQueue (.freeRecord (.chargeDown (.setList h)))

theorem offer {q b r} (h : LevelLaw s) : LevelLaw (s.offer q b r) := by
  unfold State.offer; dsimp only; split
  · exact .enqueue h
  · split
    · exact .raise (.enqueue (.evictHead h))
    · exact .refuseFull h
    · exact .refuseFull h

theorem requeue {q r} (h : LevelLaw s) : LevelLaw (s.requeue q r) := by unfold State.requeue; exact .countQueue (.setList h)

theorem dropRecord {q r} (h : LevelLaw s) : LevelLaw (s.dropRecord q r) := by
  unfold State.dropRecord; exact .countQueue (.chargeDown (.freeRecord h))

theorem spillRecord {p q r} (h : LevelLaw s) : LevelLaw (s.spillRecord p q r) := by
  unfold State.spillRecord; split
  · exact .offer (.countQueue (.chargeDown h))
  · exact .dropRecord h

theorem comeBack {q r} (h : LevelLaw s) : LevelLaw (s.comeBack q r) := by
  unfold State.comeBack; dsimp only; split
  · split
    · exact .spillRecord h
    · exact .dropRecord h
  · exact .requeue h

theorem deliverHead {m q u x} (h : LevelLaw s) (hd : s.deliverHead m q u = some x) : LevelLaw x.1 := by
  unfold State.deliverHead at hd; split at hd
  · cases hd
  · split at hd
    · cases hd
    · split at hd
      · cases hf : s.freeSlot <;> simp only [hf, Option.map_none, Option.map_some, reduceCtorEq, Option.some.injEq] at hd
        subst hd; unfold State.claimHead; dsimp only; exact .countQueue (.setSlot (.setList h))
      · cases hd; unfold State.takeHead; dsimp only; exact .countQueue (.freeRecord (.chargeDown (.setList h)))

theorem deliverMany {m q k u} (h : LevelLaw s) : LevelLaw (s.deliverMany m q k u).1 := by
  induction k generalizing s u with
  | zero => exact h
  | succ k ih =>
    unfold State.deliverMany; split
    · exact h
    · rename_i s' e hd; exact ih (.deliverHead h hd)

theorem releaseHandle {x} (h : LevelLaw s) : LevelLaw (Machine.releaseHandle x s).1 := by
  unfold Machine.releaseHandle; split
  · exact h
  · dsimp only; exact .countQueue (.chargeDown (.emptySlot (.freeRecord h)))

theorem returnHandle {x} (h : LevelLaw s) : LevelLaw (Machine.returnHandle x s).1 := by
  unfold Machine.returnHandle; split
  · exact h
  · dsimp only; exact .comeBack (.countQueue (.emptySlot h))

theorem extendHandle {x} (h : LevelLaw s) : LevelLaw (Machine.extendHandle x s).1 := by
  unfold Machine.extendHandle; split
  · exact h
  · dsimp only; exact .setSlot h

theorem settleAct {one} (ha : ∀ i s, LevelLaw s → LevelLaw (one i s).1) {b} (h : LevelLaw s) : LevelLaw (Machine.settleAct one b s).1 := by
  unfold Machine.settleAct; split
  · exact h
  · exact State.eachItem_keeps (P := LevelLaw) ha h

theorem expireLease {i o} (h : LevelLaw s) : LevelLaw (s.expireLease i o) := by
  unfold State.expireLease; dsimp only; split
  · exact .dropRecord (.raise (.countQueue (.emptySlot h)))
  · exact .comeBack (.raise (.countQueue (.emptySlot h)))

theorem freeAll {rs} (h : LevelLaw s) : LevelLaw (s.freeAll rs) := by
  unfold State.freeAll
  induction rs generalizing s with
  | nil => exact h
  | cons r rs ih => exact ih (.freeRecord h)

theorem queuePurgeAct {b} (h : LevelLaw s) : LevelLaw (Machine.queuePurgeAct b s).1 := by
  unfold Machine.queuePurgeAct; split
  · exact h
  · dsimp only; exact .countQueue (.setCharge (.setList (.freeAll h)))

theorem queueConfigAct {b} (h : LevelLaw s) : LevelLaw (Machine.queueConfigAct b s).1 := by
  unfold Machine.queueConfigAct; split
  · exact h
  · dsimp only; split
    · exact h
    · dsimp only; exact .evalDue (.setQueue h rfl)

theorem syncNotice (_h : LevelLaw s) : LevelLaw s.syncNotice := by
  intro q
  have e : s.syncNotice.notice.levels[q] = syncLevel (s.queue q).config (s.queue q).queued s.clock := by
    unfold State.syncNotice State.requestNotice; dsimp only; rw [Notice.request_levels]; exact eachQueue_get _ q
  show s.syncNotice.notice.levels[q].Agrees (s.queue q).queued
  rw [e]
  refine ⟨Nat.zero_le _, ?_, fun hd => isDue_above hd⟩
  unfold syncLevel; dsimp only; split <;> simp_all

theorem acknowledge {sn} (h : LevelLaw s) : LevelLaw (s.acknowledge sn) := by
  intro q
  have e : (s.acknowledge sn).notice.levels[q] = acknowledgedLevel sn q (s.queue q).config (s.queue q).queued s.clock s.notice.levels[q] :=
    eachQueue_get _ q
  show (s.acknowledge sn).notice.levels[q].Agrees (s.queue q).queued
  rw [e]; unfold acknowledgedLevel; dsimp only
  obtain ⟨h1, h2, _⟩ := h q
  refine ⟨?_, ?_, fun hd => isDue_above hd⟩ <;> dsimp only <;> split
  · exact min_le_right _ _
  · exact h1
  · dsimp only; split <;> simp_all
  · exact h2

theorem laneSide {t : State} (k : LaneSide s t) (h : LevelLaw s) : LevelLaw t := of_eq h k.queues k.levels
end LevelLaw

end Sys2Proof.Machine
end

