-- ==== Sys2Proof/Laws/Lines.lean ====
section
/-! SUPPORT. What every operation on a lane keeps of its receiver and its transmitter (R27, R30, R49, R64): one lemma for each
operation. -/

namespace Sys2Proof.Machine

/-- What LineLaw says of one lane. -/
def Lane.Held (n : LaneId) (now : Nat) (l : Lane) : Prop :=
  l.reception.FrameLaw 0x9E ∧ l.GatherLaw n ∧ l.reception.GapLaw now ∧ l.TransmitLaw

/-- What it says of a lane whose frame is at its end. -/
def Lane.HeldAtEnd (now : Nat) (l : Lane) : Prop := l.reception.GapLaw now ∧ l.TransmitLaw

theorem Lane.Held.atEnd {n : LaneId} {now : Nat} {l : Lane} (h : l.Held n now) : l.HeldAtEnd now := h.2.2

namespace Lane

/-! ## The transmitter -/

/-- The transmitter of l' is that of l, in the same state. -/
def SameTransmitter (l l' : Lane) : Prop := l'.sending = l.sending ∧ l'.waiting = l.waiting ∧ l'.state = l.state

theorem TransmitLaw.same {l l' : Lane} (h : l.TransmitLaw) (k : l.SameTransmitter l') : l'.TransmitLaw := by
  obtain ⟨k1, k2, k3⟩ := k
  unfold TransmitLaw at h ⊢; rw [k1, k2, k3]; exact h

/-- A frame that is neither a CREDIT nor a PROBE may become due in every state. -/
theorem TransmitLaw.makeDue {l : Lane} {f : LaneFrame} (h : l.TransmitLaw)
    (hc : f.isCredit = true → l.state = .active ∧ ∀ g ∈ l.waiting, g.isCredit = false)
    (hp : f.isProbe = true → l.state = .probing ∧ ∀ g ∈ l.waiting, g.isProbe = false) : (l.makeDue f).TransmitLaw := by
  obtain ⟨h1, h2, h3, h4⟩ := h
  unfold Lane.makeDue
  split
  · exact ⟨(fun e => by cases e), h2, h3, h4⟩
  · rename_i g hg
    refine ⟨(fun e => by have e : l.sending = none := e; rw [hg] at e; cases e), ?_, ?_, ?_⟩
    · show ((l.waiting ++ [f]).filter _).length ≤ 1
      rw [List.filter_append, List.length_append]
      cases hf : f.isCredit with
      | false => simpa [hf] using h2
      | true =>
        have : l.waiting.filter LaneFrame.isCredit = [] := List.filter_eq_nil_iff.2 fun g hg => by simp [(hc hf).2 g hg]
        simp [this, hf]
    · show ((l.waiting ++ [f]).filter _).length ≤ 1
      rw [List.filter_append, List.length_append]
      cases hf : f.isProbe with
      | false => simpa [hf] using h3
      | true =>
        have : l.waiting.filter LaneFrame.isProbe = [] := List.filter_eq_nil_iff.2 fun g hg => by simp [(hp hf).2 g hg]
        simp [this, hf]
    · intro x hx
      rcases List.mem_append.1 hx with hx | hx
      · exact h4 x hx
      · rw [List.mem_singleton] at hx
        subst hx
        exact ⟨fun e => (hc e).1, fun e => (hp e).1⟩

/-- Writing one waiting frame over another of its kind keeps every frame's kind. -/
theorem TransmitLaw.replace {l : Lane} {p : LaneFrame → Bool} {g : LaneFrame} (h : l.TransmitLaw)
    (hg : ∀ f, p f = true → f.isCredit = g.isCredit ∧ f.isProbe = g.isProbe) :
    ({ l with waiting := l.waiting.map fun f => if p f then g else f } : Lane).TransmitLaw := by
  obtain ⟨h1, h2, h3, h4⟩ := h
  have hk : ∀ f, (if p f then g else f).isCredit = f.isCredit ∧ (if p f then g else f).isProbe = f.isProbe := by
    intro f; split
    · exact ⟨(hg f ‹_›).1.symm, (hg f ‹_›).2.symm⟩
    · exact ⟨rfl, rfl⟩
  refine ⟨fun e => by rw [h1 e]; rfl, ?_, ?_, ?_⟩
  · simpa [List.filter_map, Function.comp_def, hk] using h2
  · simpa [List.filter_map, Function.comp_def, hk] using h3
  · intro x hx
    obtain ⟨f, hf, rfl⟩ := List.mem_map.1 hx
    rw [(hk f).1, (hk f).2]; exact h4 f hf

theorem TransmitLaw.dueProbe {l : Lane} (h : l.TransmitLaw) (k : Fin 4) (hs : l.state = .probing) :
    (l.dueProbe k).TransmitLaw := by
  unfold Lane.dueProbe
  split
  · exact h.replace fun f hf => by cases f <;> simp_all [LaneFrame.isProbe, LaneFrame.isCredit]
  · rename_i hn
    exact h.makeDue nofun fun _ => ⟨hs, fun g hg => by
      by_contra e; exact hn (List.any_eq_true.2 ⟨g, hg, by simpa using e⟩)⟩

theorem TransmitLaw.dueCredit {l : Lane} (h : l.TransmitLaw) (now : Nat) (hs : l.state = .active) :
    (l.dueCredit now).TransmitLaw := by
  unfold Lane.dueCredit
  dsimp only
  split
  · exact TransmitLaw.replace (l := { l with lastSent := l.limit, timers := _ }) h fun f hf => by
      cases f <;> simp_all [LaneFrame.isProbe, LaneFrame.isCredit]
  · rename_i hn
    exact TransmitLaw.makeDue (l := { l with lastSent := l.limit, timers := _ }) h (fun _ => ⟨hs, fun g hg => by
      by_contra e; exact hn (List.any_eq_true.2 ⟨g, hg, by simpa using e⟩)⟩) nofun

/-- Where no CREDIT and no PROBE waits the state does not matter. -/
theorem TransmitLaw.dropped {l l' : Lane} (h : l.TransmitLaw) (h1 : l'.sending = l.sending)
    (h2 : l'.waiting = l.waiting.filter fun f => !f.isCredit && !f.isProbe) : l'.TransmitLaw := by
  have hn : ∀ f ∈ l'.waiting, f.isCredit = false ∧ f.isProbe = false := by
    intro f hf; rw [h2, List.mem_filter] at hf; simpa using hf.2
  refine ⟨fun e => by rw [h2, h.1 (h1 ▸ e)]; rfl, ?_, ?_, fun f hf => ?_⟩
  · rw [List.filter_eq_nil_iff.2 fun f hf => by simp [(hn f hf).1]]; exact Nat.zero_le _
  · rw [List.filter_eq_nil_iff.2 fun f hf => by simp [(hn f hf).2]]; exact Nat.zero_le _
  · simp [hn f hf]

theorem TransmitLaw.frameSent {l : Lane} (h : l.TransmitLaw) (now : Nat) : (l.frameSent now).TransmitLaw := by
  obtain ⟨h1, h2, h3, h4⟩ := h
  unfold Lane.frameSent
  split
  · exact ⟨h1, h2, h3, h4⟩
  · rename_i f hf
    have key : ∀ m : Lane, m.waiting = l.waiting → m.state = l.state →
        ({ m with sending := m.waiting.head?, waiting := m.waiting.tail } : Lane).TransmitLaw := by
      intro m e1 e2
      have ht := List.tail_sublist l.waiting
      refine ⟨fun e => ?_, ?_, ?_, ?_⟩
      · show m.waiting.tail = []
        rw [List.head?_eq_none_iff.1 e]; rfl
      · show (m.waiting.tail.filter _).length ≤ 1
        rw [e1]; exact ((ht.filter _).length_le).trans h2
      · show (m.waiting.tail.filter _).length ≤ 1
        rw [e1]; exact ((ht.filter _).length_le).trans h3
      · intro g hg
        show (_ → m.state = _) ∧ (_ → m.state = _)
        rw [e2]; exact h4 g (ht.subset (e1 ▸ hg))
    split <;> exact key _ rfl rfl

/-! ## The receiver -/

namespace Held

variable {n : LaneId} {now : Nat} {l l' : Lane}

/-- A change that leaves the receiver alone. -/
theorem same (h : l.Held n now) (h1 : l'.receiver = l.receiver) (h2 : l'.reception = l.reception) (h3 : l'.TransmitLaw) :
    l'.Held n now := by
  unfold Held GatherLaw at h ⊢; rw [h1, h2]; exact ⟨h.1, h.2.1, h.2.2.1, h3⟩

theorem idleGather (n : LaneId) (k : Nat) : laneVerdict n none (List.take k []) = none := by rw [List.take_nil]; rfl

/-- Hunting with no frame, the characters it is to look at again among those it held last. -/
theorem hunting (h1 : l'.receiver = .hunting) (h2 : l'.reception.frame = [])
    (h3 : ∀ c ∈ l'.reception.again.getLast?, now ≤ c.gapEnd + 1) (h4 : l'.TransmitLaw) : l'.Held n now := by
  refine ⟨?_, ?_, ?_, h4⟩
  · unfold Reception.FrameLaw; rw [h2]; exact nofun
  · unfold GatherLaw; rw [h1]
    show ∀ k, laneVerdict n none (l'.reception.bytes.take k) = none
    rw [show l'.reception.bytes = [] by unfold Reception.bytes; rw [h2]; rfl]
    exact idleGather n
  · unfold Reception.GapLaw; rw [h2]; exact h3

theorem getLast_append {α} {a b : List α} {x : α} (h : x ∈ b.getLast?) : x ∈ (a ++ b).getLast? := by
  rw [List.getLast?_append]; rw [Option.mem_def] at h ⊢; rw [h]; rfl

theorem ended (h : l.HeldAtEnd now) (h1 : l'.receiver = .hunting) (h2 : l'.reception = l.reception.ended) (h3 : l'.TransmitLaw) :
    l'.Held n now :=
  hunting h1 (by rw [h2]; rfl) (fun c hc => h.1 c (getLast_append (by rw [h2] at hc; exact hc))) h3

theorem rehunt (h : l.HeldAtEnd now) (h1 : l'.receiver = .hunting) (h2 : l'.reception = l.reception.rehunt) (h3 : l'.TransmitLaw) :
    l'.Held n now := by
  refine hunting h1 (by rw [h2]; rfl) (fun c hc => h.1 c ?_) h3
  rw [h2] at hc
  have hc : c ∈ (l.reception.frame.tail ++ l.reception.again).getLast? := hc
  cases hf : l.reception.frame with
  | nil => rw [hf] at hc; exact hc
  | cons x xs => rw [hf] at hc; exact getLast_append (a := [x]) hc

theorem count (h : l.Held n now) (f) : (l.count f).Held n now := h.same rfl rfl (h.2.2.2.same ⟨rfl, rfl, rfl⟩)

theorem toDown (h : l.Held n now) : l.toDown.Held n now := h.same rfl rfl (h.2.2.2.dropped rfl rfl)

theorem goodFrame (h : l.HeldAtEnd now) (t) (hr : l.receiver = .hunting) : (l.goodFrame t).Held n now := by
  unfold Lane.goodFrame Lane.restartSilence
  split <;> exact ended h hr rfl (h.2.same ⟨rfl, rfl, rfl⟩)

theorem goodFrame_receiver (t) : (l.goodFrame t).receiver = l.receiver := by
  unfold Lane.goodFrame Lane.restartSilence; split <;> rfl

theorem goodFrame_state (t) : (l.goodFrame t).state = l.state := by
  unfold Lane.goodFrame Lane.restartSilence; split <;> rfl

theorem makeDue_receiver (f) : (l.makeDue f).receiver = l.receiver ∧ (l.makeDue f).reception = l.reception := by
  unfold Lane.makeDue; split <;> exact ⟨rfl, rfl⟩

theorem dueProbe_receiver (k) : (l.dueProbe k).receiver = l.receiver ∧ (l.dueProbe k).reception = l.reception := by
  unfold Lane.dueProbe; split
  · exact ⟨rfl, rfl⟩
  · exact makeDue_receiver _

theorem dueCredit_receiver (t) : (l.dueCredit t).receiver = l.receiver ∧ (l.dueCredit t).reception = l.reception := by
  unfold Lane.dueCredit; dsimp only; split
  · exact ⟨rfl, rfl⟩
  · exact makeDue_receiver (l := { l with lastSent := l.limit, timers := _ }) _

theorem makeDue (h : l.Held n now) (f : LaneFrame) (hf : f.isCredit = false ∧ f.isProbe = false) : (l.makeDue f).Held n now :=
  h.same (makeDue_receiver f).1 (makeDue_receiver f).2 (h.2.2.2.makeDue (by simp [hf.1]) (by simp [hf.2]))

theorem dueProbe (h : l.Held n now) (k) (hs : l.state = .probing) : (l.dueProbe k).Held n now :=
  h.same (dueProbe_receiver k).1 (dueProbe_receiver k).2 (h.2.2.2.dueProbe k hs)

theorem dueCredit (h : l.Held n now) (t) (hs : l.state = .active) : (l.dueCredit t).Held n now :=
  h.same (dueCredit_receiver t).1 (dueCredit_receiver t).2 (h.2.2.2.dueCredit t hs)

theorem testCreditAfterE (h : l.Held n now) (t) : (l.testCreditAfterE t).Held n now := by
  unfold Lane.testCreditAfterE; split
  · exact h.dueCredit t (And.left ‹_›)
  · exact h

theorem testCreditAfterGrant (h : l.Held n now) (t) : (l.testCreditAfterGrant t).Held n now := by
  unfold Lane.testCreditAfterGrant; split
  · exact h.dueCredit t (And.left ‹_›)
  · exact h

theorem restartProbe (h : l.Held n now) (hs : l.state = .probing) : l.restartProbe.Held n now := by
  unfold Lane.restartProbe
  exact dueProbe (l := { l with awaited := 0, timers := _, counters := _ }) (h.same rfl rfl (h.2.2.2.same ⟨rfl, rfl, rfl⟩)) 0 hs

/-- Entry to PROBING, from a state in which no CREDIT can wait. -/
theorem enterProbing (h : l.Held n now) (t) (hs : l.state ≠ .active) : (l.enterProbing t).Held n now := by
  unfold Lane.enterProbing
  refine dueProbe (l := { l with state := .probing, awaited := 0, consecutiveBad := 0, pendingMissing := 0, timers := _ })
    (h.same rfl rfl ⟨h.2.2.2.1, h.2.2.2.2.1, h.2.2.2.2.2.1, fun f hf => ?_⟩) 0 rfl
  obtain ⟨k1, k2⟩ := h.2.2.2.2.2.2 f hf
  exact ⟨fun e => absurd (k1 e) hs, fun _ => rfl⟩

theorem frameSent (h : l.Held n now) (t) : (l.frameSent t).Held n now := by
  refine h.same ?_ ?_ (h.2.2.2.frameSent t) <;> (unfold Lane.frameSent; split <;> [rfl; split <;> rfl])

end Held

end Lane

/-! ## The part -/

/-- What LineLaw says of the lanes. -/
def LanesHeld (s : State) : Prop := ∀ n, (s.lane n).Held n s.clock

namespace LanesHeld

variable {s t : State} {n : LaneId}

theorem of_eq (h : LanesHeld s) (hl : t.lanes = s.lanes) (hc : t.clock = s.clock) : LanesHeld t := fun n => by
  rw [hc, State.lane, hl]; exact h n

theorem mapLane {f : Lane → Lane} (h : LanesHeld s) (hf : (s.lane n).Held n s.clock → (f (s.lane n)).Held n s.clock) :
    LanesHeld (s.mapLane n f) := fun m => by
  rw [State.lane_mapLane]; split
  · rename_i e; cases e; exact hf (h n)
  · exact h m

theorem raise {k b} (h : LanesHeld s) : LanesHeld (s.raise k b) := h.of_eq rfl rfl

theorem freeRecord {r} (h : LanesHeld s) : LanesHeld (s.freeRecord r) := h.of_eq rfl rfl

theorem freeAssembly {r} (h : LanesHeld s) : LanesHeld (s.freeAssembly r) := by
  rw [State.freeAssembly_eq]; exact h.of_eq rfl rfl

theorem endSession (h : LanesHeld s) : LanesHeld (s.endSession n) := by
  unfold State.endSession; exact .mapLane (.freeAssembly h) fun h => h.toDown

theorem closingEnd (h : LanesHeld s) : LanesHeld (s.closingEnd n) := by
  unfold State.closingEnd; exact .raise (.endSession h)

theorem checkWindow (h : LanesHeld s) : LanesHeld (s.checkWindow n) := by
  unfold State.checkWindow; dsimp only; split
  · exact .closingEnd h
  · exact h

theorem loseLane (h : LanesHeld s) : LanesHeld (s.loseLane n) := by
  unfold State.loseLane; dsimp only; split
  · refine .mapLane (.raise (.endSession h)) fun k => k.enterProbing _ ?_
    rw [State.lane_raise, State.endSession, State.lane_mapLane_same]; exact nofun
  · exact .raise (.endSession h)

end LanesHeld

/-- The same, while the frame on lane n is at its end. -/
def LanesHeldBut (n : LaneId) (s : State) : Prop := (∀ m, m ≠ n → (s.lane m).Held m s.clock) ∧ (s.lane n).HeldAtEnd s.clock

theorem LanesHeld.but {s : State} (h : LanesHeld s) (n : LaneId) : LanesHeldBut n s := ⟨fun m _ => h m, (h n).atEnd⟩

namespace LanesHeldBut

variable {s t : State} {n : LaneId}

theorem of_eq (h : LanesHeldBut n s) (hl : t.lanes = s.lanes) (hc : t.clock = s.clock) : LanesHeldBut n t := by
  unfold LanesHeldBut State.lane; rw [hl, hc]; exact h

/-- The frame ends. -/
theorem ends {f : Lane → Lane} (h : LanesHeldBut n s)
    (hf : (s.lane n).HeldAtEnd s.clock → (f (s.lane n)).Held n s.clock) : LanesHeld (s.mapLane n f) := fun m => by
  rw [State.lane_mapLane]; split
  · rename_i e; cases e; exact hf h.2
  · exact h.1 m fun e => ‹¬_› e.symm

/-- Or it does not yet. -/
theorem mapLane {f : Lane → Lane} (h : LanesHeldBut n s)
    (hf : (s.lane n).HeldAtEnd s.clock → (f (s.lane n)).HeldAtEnd s.clock) : LanesHeldBut n (s.mapLane n f) :=
  ⟨fun m hm => by rw [State.lane_mapLane, if_neg (Ne.symm hm)]; exact h.1 m hm, by
    rw [State.lane_mapLane_same]; exact hf h.2⟩

theorem badFrame (h : LanesHeldBut n s) : LanesHeld (s.badFrame n) := by
  unfold State.badFrame; dsimp only; split
  · exact .loseLane (h.ends fun k => .rehunt k rfl rfl (k.2.same ⟨rfl, rfl, rfl⟩))
  · exact h.ends fun k => .rehunt k rfl rfl (k.2.same ⟨rfl, rfl, rfl⟩)

theorem recordBad {r} (h : LanesHeldBut n s) : LanesHeld (s.recordBad n r) := by
  unfold State.recordBad; dsimp only
  exact .checkWindow (LanesHeldBut.badFrame (LanesHeldBut.mapLane (h.of_eq (t := s.freeRecord r) rfl rfl) fun k =>
    ⟨k.1, k.2.same ⟨rfl, rfl, rfl⟩⟩))

theorem laneFrameFails (h : LanesHeldBut n s) : LanesHeld (s.laneFrameFails n) := by
  unfold State.laneFrameFails; split
  · exact LanesHeldBut.recordBad h
  · exact LanesHeldBut.badFrame h

theorem good (h : LanesHeldBut n s) (hr : (s.lane n).receiver = .hunting) : LanesHeld (s.mapLane n (Lane.goodFrame s.clock)) :=
  h.ends fun k => .goodFrame k _ hr

theorem protocolError (h : LanesHeldBut n s) (hr : (s.lane n).receiver = .hunting) : LanesHeld (s.protocolError n) := by
  unfold State.protocolError; exact h.ends fun k => (Lane.Held.goodFrame k _ hr).count _

theorem probeEcho {i p x} (h : LanesHeldBut n s) (hr : (s.lane n).receiver = .hunting) (hs : (s.lane n).state = .probing) :
    LanesHeld (s.probeEcho n i p x) := by
  have hs' : ((s.mapLane n (Lane.goodFrame s.clock)).lane n).state = .probing := by
    rw [State.lane_mapLane_same, Lane.Held.goodFrame_state]; exact hs
  unfold State.probeEcho; dsimp only; split
  · split
    · unfold State.activate
      exact .raise (.mapLane (h.good hr) fun k => k.same rfl rfl (k.2.2.2.dropped rfl rfl))
    · refine .mapLane (h.good hr) fun k => Lane.Held.dueProbe ?_ _ hs'
      exact k.same rfl rfl (k.2.2.2.same ⟨rfl, rfl, rfl⟩)
  · exact .mapLane (h.good hr) fun k => k.restartProbe hs'

theorem closeFromSource (h : LanesHeldBut n s) (hr : (s.lane n).receiver = .hunting) : LanesHeld (s.closeFromSource n) := by
  unfold State.closeFromSource; dsimp only
  exact .closingEnd (h.ends fun k => (Lane.Held.goodFrame k _ hr).makeDue _ ⟨rfl, rfl⟩)

theorem takeKeepalive {x} (h : LanesHeldBut n s) (hr : (s.lane n).receiver = .hunting) : LanesHeld (s.takeKeepalive n x) := by
  unfold State.takeKeepalive; dsimp only; split
  · refine .checkWindow (.mapLane (h.good hr) fun k => Lane.Held.testCreditAfterE ?_ _)
    exact k.same rfl rfl (k.2.2.2.same ⟨rfl, rfl, rfl⟩)
  · split
    · exact h.good hr
    · exact .mapLane (h.good hr) fun k => k.count _

/-- A good frame is taken, unless it is a RECORD in a session. -/
theorem laneGoodFrame {k b} (h : LanesHeldBut n s) (hr : (s.lane n).receiver = .hunting)
    (hk : k = LaneKind.record → (s.lane n).inSession = false) : LanesHeld (s.laneGoodFrame n k b) := by
  unfold State.laneGoodFrame; dsimp only
  rw [if_neg (not_not.2 hr)]
  repeat' split
  all_goals with_reducible
    first
    | exact LanesHeldBut.protocolError h hr
    | exact LanesHeldBut.probeEcho h hr ‹_›
    | exact LanesHeldBut.takeKeepalive h hr
    | exact LanesHeldBut.closeFromSource h hr
    | exact .closingEnd (LanesHeldBut.good h hr)
    | exact LanesHeldBut.good h hr
    | (rename_i a b; have := hk a; rw [b] at this; cases this)

/-! ### RECORD frames -/

theorem shortRecordEnd {g} (h : LanesHeldBut n s) (hr : (s.lane n).receiver = .hunting) : LanesHeld (s.shortRecordEnd n g) := by
  unfold State.shortRecordEnd; split
  · split
    · exact h.ends fun k => (Lane.Held.goodFrame k _ hr).count _
    · exact LanesHeldBut.protocolError h hr
  · exact LanesHeldBut.badFrame h

theorem frameEnd {b g} (h : LanesHeldBut n s) : LanesHeld (s.frameEnd n b g) := by
  have hm : LanesHeldBut n (s.mapLane n fun l => { l with receiver := .hunting }) :=
    h.mapLane fun k => ⟨k.1, k.2.same ⟨rfl, rfl, rfl⟩⟩
  have hh : ((s.mapLane n fun l => { l with receiver := .hunting }).lane n).receiver = .hunting := by
    rw [State.lane_mapLane_same]
  unfold State.frameEnd; dsimp only; split
  · split
    · exact hm.good hh
    · exact hm.protocolError hh
  · exact LanesHeldBut.badFrame h

theorem recordGood {r} (h : LanesHeldBut n s) : LanesHeld (s.recordGood n r) := by
  have hg : LanesHeld (s.mapLane n fun l =>
      (({ l with assembly := none, receiver := .hunting } : Lane).goodFrame s.clock).count fun c =>
        { c with recordsAccepted := bump c.recordsAccepted }) :=
    h.ends fun k => by
      refine Lane.Held.count (Lane.Held.goodFrame ?_ _ rfl) _
      exact ⟨k.1, k.2.same ⟨rfl, rfl, rfl⟩⟩
  exact .checkWindow (hg.of_eq rfl rfl)

theorem recordBytes {bs} (h : LanesHeldBut n s) : LanesHeldBut n (s.recordBytes n bs) := by
  unfold State.recordBytes
  refine h.mapLane fun k => ⟨?_, k.2.same ⟨rfl, rfl, rfl⟩⟩
  have k := k.1
  rw [Lane.storePayload_reception]
  unfold Reception.holding
  split
  · exact k
  · intro c hc
    dsimp only at hc
    cases ha : (s.lane n).reception.again with
    | nil =>
      rw [ha, List.append_nil] at hc
      have := List.mem_of_mem_getLast? hc
      obtain ⟨b, _, rfl⟩ := List.mem_map.1 this
      show s.clock ≤ s.clock + Config.laneCharGap + 1
      omega
    | cons x xs =>
      rw [ha, List.getLast?_append] at hc
      refine k c ?_
      rw [ha, List.getLast?_append]
      rwa [List.getLast?_cons, Option.some_or] at hc ⊢

/-- Behind its header decision the frame is being gathered. -/
theorem receiveRecord {covered : List Byte} {remaining : Nat} {b} (h : LanesHeldBut n s)
    (hf : (s.lane n).reception.FrameLaw 0x9E) (h1 : covered.length = 15)
    (h2 : covered.getD 3 0 = 0x12) (h3 : nat16 (covered.getD 0 0) (covered.getD 1 0) = remaining + 13) (h4 : remaining ≤ 247) :
    LanesHeld ((s.recordBytes n covered).receiveRecord n covered remaining b) := by
  unfold State.receiveRecord
  refine h.recordBytes.ends fun k => ⟨?_, ?_, k.1, k.2.same ⟨rfl, rfl, rfl⟩⟩
  all_goals
    simp only [State.recordBytes, State.lane_mapLane_same, Lane.storePayload_reception]
    unfold Reception.holding
  · split
    · exact hf
    · intro c hc
      cases hc
      exact ⟨rfl, fun x hx => by obtain ⟨b, _, rfl⟩ := List.mem_map.1 hx; rfl⟩
  · refine ⟨h1, h2, h3, h4, [], ?_, by simp⟩
    split
    · rename_i e
      show Reception.bytes _ = covered ++ []
      unfold Reception.bytes
      rw [List.map_drop, e, List.append_nil]; rfl
    · show Reception.bytes _ = covered ++ []
      unfold Reception.bytes
      rw [List.map_drop, List.map_map, List.append_nil]
      exact List.map_id _

end LanesHeldBut

namespace LanesHeld

variable {s t : State} {n : LaneId}

theorem storeLowTest (h : LanesHeld s) : LanesHeld s.storeLowTest := by
  unfold State.storeLowTest; split <;> exact h.of_eq rfl rfl

theorem acceptHeader {x d} (h : LanesHeld s) : LanesHeld (s.acceptHeader n x d) := by
  have hm : LanesHeld (s.mapLane n fun l =>
      ({ l with
         e := x.seq + 1
         pendingMissing := 0
         assembly := some (acceptedRecord n x (addMissing (s.lane n).pendingMissing d))
         counters := { l.counters with missingTotal := bumpBy d l.counters.missingTotal } } : Lane).testCreditAfterE s.clock) := by
    refine .mapLane h fun k => Lane.Held.testCreditAfterE ?_ _
    exact k.same rfl rfl (k.2.2.2.same ⟨rfl, rfl, rfl⟩)
  unfold State.acceptHeader State.allocate
  exact .storeLowTest (hm.of_eq rfl rfl)

end LanesHeld

namespace LanesHeldBut

variable {s t : State} {n : LaneId}

theorem headerCovered_shape (length : Half) (seqByte : Byte) (x : RecordHeader) (check : Byte) :
    (headerCovered length seqByte x check).length = 15 ∧ (headerCovered length seqByte x check).getD 3 0 = 0x12 ∧
    nat16 ((headerCovered length seqByte x check).getD 0 0) ((headerCovered length seqByte x check).getD 1 0) = length.toNat := by
  refine ⟨rfl, rfl, ?_⟩
  show nat16 (length.extractLsb' 8 8) (length.extractLsb' 0 8) = _
  unfold nat16; rw [half_be16]

/-- A header decision (R49): the frame fails its check, or is gathered on. -/
theorem headerDecision {length : Half} {seqByte x check} (h : LanesHeldBut n s) (hf : (s.lane n).reception.FrameLaw 0x9E)
    (h1 : 13 ≤ length.toNat) (h2 : length.toNat ≤ 260) :
    LanesHeld ((s.recordBytes n (headerCovered length seqByte x check)).headerDecision n (length.toNat - 2)
      (headerCovered length seqByte x check) x check) := by
  obtain ⟨k1, k2, k3⟩ := headerCovered_shape length seqByte x check
  have hr := h.receiveRecord (b := true) (remaining := length.toNat - 2 - 11) hf k1 k2 (by rw [k3]; omega) (by omega)
  unfold State.headerDecision; dsimp only; split
  · exact LanesHeldBut.badFrame (h.recordBytes.mapLane fun k => ⟨k.1, k.2.same ⟨rfl, rfl, rfl⟩⟩)
  · split
    · exact hr.mapLane fun k => k.count _
    · split
      · exact hr.acceptHeader
      · exact hr.acceptHeader
      · exact hr.mapLane fun k => k.count _
      · exact hr.mapLane fun k => k.count _

end LanesHeldBut

namespace LanesHeld

variable {s t : State} {n : LaneId}

/-! ## The credit allocator -/

theorem grant (h : LanesHeld s) : LanesHeld s.grant := by
  unfold State.grant; split
  · rename_i m _
    have hm : LanesHeld (s.mapLane m fun l => ({ l with limit := l.limit + 1 } : Lane).testCreditAfterGrant s.clock) := by
      refine .mapLane h fun k => Lane.Held.testCreditAfterGrant ?_ _
      exact k.same rfl rfl (k.2.2.2.same ⟨rfl, rfl, rfl⟩)
    exact hm.of_eq rfl rfl
  · exact h

theorem grantMany {k} (h : LanesHeld s) : LanesHeld (s.grantMany k) := by
  induction k generalizing s with
  | zero => exact h
  | succ k ih => exact ih h.grant

theorem frameSent (h : LanesHeld s) : LanesHeld (s.mapLane n (Lane.frameSent s.clock)) := .mapLane h fun k => k.frameSent _

/-! ## Lane requests -/

/-- A change of the named lanes, one after another. -/
theorem foldMap {ls : List LaneId} {f : Nat → Lane → Lane} {Q : Lane → Prop}
    (hf : ∀ (m : LaneId) l t, Q l → l.Held m t → (f t l).Held m t) (hQ : ∀ t l, Q l → Q (f t l)) (h : LanesHeld s)
    (hs : ∀ m ∈ ls, Q (s.lane m)) : LanesHeld (ls.foldl (fun s m => s.mapLane m (f s.clock)) s) := by
  induction ls generalizing s with
  | nil => exact h
  | cons m ls ih =>
    refine ih (.mapLane h fun k => hf m _ _ (hs m List.mem_cons_self) k) fun a ha => ?_
    rw [State.lane_mapLane]; split
    · rename_i e; rw [e]; exact hQ _ _ (hs a (List.mem_cons_of_mem _ ha))
    · exact hs a (List.mem_cons_of_mem _ ha)

theorem laneConfigAct {b} (h : LanesHeld s) : LanesHeld (Machine.laneConfigAct b s).1 := by
  unfold Machine.laneConfigAct; split
  · exact h
  · split
    · exact h
    · rename_i c _ _ _
      exact h.foldMap (f := fun _ l => { l with config := c }) (Q := fun _ => True)
        (fun _ _ _ _ k => k.same rfl rfl (k.2.2.2.same ⟨rfl, rfl, rfl⟩)) (fun _ _ _ => trivial)
        fun _ _ => trivial

theorem laneOpenAct {b} (h : LanesHeld s) : LanesHeld (Machine.laneOpenAct b s).1 := by
  unfold Machine.laneOpenAct; split
  · exact h
  · split
    · exact h
    · rename_i hb
      refine h.foldMap (Q := fun l => l.state ≠ .active) (fun _ _ t hs k => k.enterProbing t hs) (fun t l _ => ?_) fun m hm e => ?_
      · rw [Lane.enterProbing, Lane.dueProbe, Lane.makeDue]; split <;> [exact nofun; split <;> exact nofun]
      · have := List.find?_eq_none.1 hb m hm
        simp [e] at this

theorem enterClosing (h : LanesHeld s) : LanesHeld (s.enterClosing n) := by
  unfold State.enterClosing
  refine .checkWindow (.mapLane h fun k => Lane.Held.makeDue ?_ _ ⟨rfl, rfl⟩)
  exact k.same rfl rfl (k.2.2.2.dropped rfl rfl)

theorem closeLane (h : LanesHeld s) : LanesHeld (Machine.closeLane n s).1 := by
  unfold Machine.closeLane; split <;> dsimp only
  · exact .enterClosing h
  · exact .endSession h
  all_goals exact h

theorem abortLane (h : LanesHeld s) : LanesHeld (Machine.abortLane n s).1 := by
  have hm : LanesHeld ((s.endSession n).mapLane n fun l => { l with waiting := [] }) :=
    .mapLane (.endSession h) fun k => k.same rfl rfl ⟨fun _ => rfl, Nat.zero_le _, Nat.zero_le _, nofun⟩
  unfold Machine.abortLane; dsimp only; split
  · exact h
  · dsimp only; split
    · exact .raise hm
    · exact hm

theorem eachLane {act : LaneId → State → State × Byte} (ha : ∀ n s, LanesHeld s → LanesHeld (act n s).1) {l} (h : LanesHeld s) :
    LanesHeld (Machine.eachItem act l s).1 := by
  induction l generalizing s with
  | nil => exact h
  | cons i l ih => exact ih (ha i s h)

theorem laneCloseAct {b} (h : LanesHeld s) : LanesHeld (Machine.laneCloseAct b s).1 := by
  unfold Machine.laneCloseAct; split
  · exact h
  · exact .eachLane (fun _ _ => .closeLane) h

theorem laneAbortAct {b} (h : LanesHeld s) : LanesHeld (Machine.laneAbortAct b s).1 := by
  unfold Machine.laneAbortAct; split
  · exact h
  · exact .eachLane (fun _ _ => .abortLane) h

/-! ## RESET(STORE) -/

theorem storeReset (h : LanesHeld s) : LanesHeld s.storeReset := by
  have hf : ∀ (ls : List LaneId) (u : State), LanesHeld u → LanesHeld (ls.foldl (fun s n => s.checkWindow n) u) := by
    intro ls
    induction ls with
    | nil => exact fun _ h => h
    | cons n ls ih => exact fun u h => ih _ h.checkWindow
  unfold State.storeReset
  refine .grantMany (hf _ _ fun n => ?_)
  have e : s.storeResetBlocks.lane n = (s.lane n).storeReset := mapVec_get _ _ n
  rw [e]
  unfold Lane.storeReset
  split
  · exact h n
  · exact (h n).same rfl rfl ((h n).2.2.2.same ⟨rfl, rfl, rfl⟩)

end LanesHeld

/-! ## What a receiver makes of a character -/

/-- Every character has its stop bit. -/
theorem LineChar.stops_iff {cs : List LineChar} : (cs.any fun c => !c.stop) = false ↔ ∀ x ∈ cs, x.stop = true := by
  simp [List.any_eq_false]

/-- A character taken keeps the gap law (R27, R153). -/
theorem Reception.gather_gap {now sof} {c : LineChar} {r k : Reception} {line rest} {g : Nat} (hg : now ≤ g)
    (hn : r.next g line = some (c, k, rest)) (h : r.GapLaw now) :
    (k.gather sof c).GapLaw now := by
  obtain ⟨hn, hf⟩ := Reception.next_eq_some.1 hn
  rw [Reception.gather_eq]
  intro x hx
  have hx' : x ∈ ((if k.frame = [] then (if c.stop = true ∧ c.byte = sof then [c] else []) else k.frame ++ [c]) ++ k.again).getLast? := hx
  rcases hn with ⟨h1, h2⟩ | ⟨h1, h2, a, h3, h4, h5⟩
  · refine h x ?_
    rw [h1]
    cases hk : k.again with
    | cons y ys =>
      rw [hk] at hx'
      rw [List.getLast?_append, List.getLast?_cons] at hx' ⊢
      rw [List.getLast?_cons]
      simpa using hx'
    | nil =>
      rw [hk, List.append_nil] at hx'
      have : x = c := by
        split at hx'
        · split at hx'
          · simpa using hx'.symm
          · cases hx'
        · simpa using hx'.symm
      rw [this]; simp
  · rw [h2, List.append_nil] at hx'
    have : x = c := by
      split at hx'
      · split at hx'
        · simpa using hx'.symm
        · cases hx'
      · simpa using hx'.symm
    rw [this, h5]; show now ≤ g + 1; omega

/-- A character with its stop bit keeps the frame law. -/
theorem Reception.gather_frame {sof} {c : LineChar} {r k : Reception} {line rest} {g : Nat}
    (hn : r.next g line = some (c, k, rest)) (h : r.FrameLaw sof)
    (hs : ∀ x ∈ (k.gather sof c).frame, x.stop = true) : (k.gather sof c).FrameLaw sof := by
  obtain ⟨hn, hf⟩ := Reception.next_eq_some.1 hn
  intro x hx
  refine ⟨?_, hs⟩
  rw [Reception.gather_eq] at hx
  have hx' : x ∈ (if k.frame = [] then (if c.stop = true ∧ c.byte = sof then [c] else []) else k.frame ++ [c]).head? := hx
  rw [hf] at hx'
  cases hr : r.frame with
  | nil =>
    rw [hr, if_pos rfl] at hx'
    split at hx'
    · rename_i e; simp at hx'; rw [← hx']; exact e.2
    · cases hx'
  | cons y ys =>
    rw [hr, if_neg nofun] at hx'
    have : y = x := by simpa using hx'
    have := (h y (by rw [hr]; rfl)).1
    simp_all

/-- What a character does to the bytes of the frame. -/
theorem Reception.gather_bytes {sof} {c : LineChar} {r k : Reception} {line rest} {g : Nat} (hn : r.next g line = some (c, k, rest)) :
    (r.frame = [] ∧ (k.gather sof c).bytes = [] ∧ ((k.gather sof c).frame = [] ∨ (k.gather sof c).frame = [c] ∧ c.stop = true)) ∨
    (r.frame ≠ [] ∧ (k.gather sof c).frame = r.frame ++ [c] ∧ (k.gather sof c).bytes = r.bytes ++ [c.byte]) := by
  obtain ⟨hn, hf⟩ := Reception.next_eq_some.1 hn
  rw [Reception.gather_eq, hf]
  by_cases h : r.frame = []
  · refine .inl ⟨h, ?_⟩
    unfold Reception.bytes
    dsimp only
    rw [if_pos h]
    split
    · exact ⟨rfl, .inr ⟨rfl, And.left ‹_›⟩⟩
    · exact ⟨rfl, .inl rfl⟩
  · refine .inr ⟨h, by dsimp only; rw [if_neg h], ?_⟩
    unfold Reception.bytes
    dsimp only
    rw [if_neg h]
    cases hr : r.frame with
    | nil => exact absurd hr h
    | cons x xs => simp

/-- The same, from what the receiver has looked at. -/
theorem Reception.gather_law {sof : Byte} {x : LineChar} {k r : Reception} {line rest g y chars}
    (hn : r.next g line = some (x, k, rest)) (h : r.FrameLaw sof)
    (e : (k.gather sof x).frame = y :: chars) (hst : (chars.any fun c => !c.stop) ≠ true) : (k.gather sof x).FrameLaw sof := by
  refine Reception.gather_frame hn h ?_
  rw [e]
  have hst' := LineChar.stops_iff.1 (by simpa using hst)
  intro z hz
  rcases List.mem_cons.1 hz with rfl | hz
  · rcases Reception.gather_bytes (sof := sof) hn with ⟨_, _, g | ⟨g, gs⟩⟩ | ⟨g, g2, _⟩
    · rw [g] at e; cases e
    · rw [g] at e; cases e; exact gs
    · rw [g2] at e
      cases hf : r.frame with
      | nil => exact absurd hf g
      | cons a as =>
        rw [hf] at e
        simp only [List.cons_append, List.cons.injEq] at e
        have := (h a (by rw [hf]; rfl)).2 a (by rw [hf]; exact List.mem_cons_self)
        rw [← e.1]; exact this
  · exact hst' z hz

/-! ## What the bytes of a lane frame are -/

/-- A frame at its end, in its parts. -/
theorem laneBytes_split {more : List Byte} {length : Nat} (h2 : 2 ≤ length) (hl : length + 2 ≤ more.length) :
    ∃ q kind body c1 c0 tl, more = q :: kind :: body ++ c1 :: c0 :: tl ∧ body.length + 2 = length ∧
      more.take length = q :: kind :: body ∧ more.drop length = c1 :: c0 :: tl := by
  have h1 : (more.take length).length = length := by simp; omega
  have h3 : (more.drop length).length = more.length - length := by simp
  match ha : more.take length, hb : more.drop length with
  | q :: kind :: body, c1 :: c0 :: tl =>
    refine ⟨q, kind, body, c1, c0, tl, ?_, ?_, rfl, rfl⟩
    · rw [← ha, ← hb, List.take_append_drop]
    · rw [ha] at h1; simpa using h1
  | [], _ => rw [ha] at h1; simp at h1; omega
  | [_], _ => rw [ha] at h1; simp at h1; omega
  | _, [] => rw [hb] at h3; simp at h3; omega
  | _, [_] => rw [hb] at h3; simp at h3; omega

/-- A frame that has not come to its end. -/
theorem laneVerdict_none {n d l1 l0 more} (h : laneVerdict n d (l1 :: l0 :: more) = none) :
    2 ≤ nat16 l1 l0 ∧ nat16 l1 l0 ≤ 260 ∧ more.length < nat16 l1 l0 + 2 := by
  unfold laneVerdict at h
  dsimp only at h
  split at h
  · cases h
  · rename_i hl
    split at h
    · exact ⟨by omega, by omega, ‹_›⟩
    · exfalso
      obtain ⟨q, kind, body, c1, c0, tl, e, eb, e1, e2⟩ := laneBytes_split (more := more) (length := nat16 l1 l0)
          (by omega) (by omega)
      rw [e1, e2] at h
      dsimp only at h
      split at h
      · cases h
      · split at h <;> cases h

/-- The commands the bytes of a lane frame can give, and when. -/
theorem laneVerdict_some {n d bs c} (h : laneVerdict n d bs = some c) :
    c = .laneBadFrame n ∨
    (d = none ∧ ∃ length q x ck, 13 ≤ BitVec.toNat length ∧ BitVec.toNat length ≤ 260 ∧ c = .recordHeader n length q x ck) ∨
    (∃ l1 l0 q kind body c1 c0 tl, bs = l1 :: l0 :: q :: kind :: (body ++ c1 :: c0 :: tl) ∧ body.length + 2 = nat16 l1 l0 ∧
      (kind = LaneKind.record ∧ c = .recordEnd n ((l1 :: l0 :: q :: kind :: body).drop (d.getD 0)) (half c1 c0) ∨
       kind ≠ LaneKind.record ∧ c = goodLaneFrame n kind body)) := by
  unfold laneVerdict at h
  split at h
  · rename_i l1 l0 more
    dsimp only at h
    split at h
    · cases h; exact .inl rfl
    · rename_i hl
      split at h
      · split at h
        · rename_i hd
          unfold recordHeaderCommand at h
          split at h
          · split at h
            · cases h
              rename_i e _
              simp only [List.cons.injEq] at e
              refine .inr (.inl ⟨hd.1, _, _, _, _, ?_, ?_, rfl⟩)
              · have := hd.2; rw [e.1, e.2.1] at this; exact this
              · have : nat16 l1 l0 ≤ 260 := by omega
                rw [e.1, e.2.1] at this; exact this
            · cases h
          · cases h
        · cases h
      · obtain ⟨q, kind, body, c1, c0, tl, e, eb, e1, e2⟩ := laneBytes_split (more := more) (length := nat16 l1 l0)
          (by omega) (by omega)
        rw [e1, e2] at h
        dsimp only at h
        split at h
        · cases h
          exact .inr (.inr ⟨l1, l0, q, kind, body, c1, c0, tl, by rw [e]; rfl, eb, .inl ⟨‹_›, rfl⟩⟩)
        · split at h
          · cases h; exact .inr (.inr ⟨l1, l0, q, kind, body, c1, c0, tl, by rw [e]; rfl, eb, .inr ⟨‹_›, rfl⟩⟩)
          · cases h; exact .inl rfl
  · cases h

/-- The header decision does not pass unnoticed (R49). -/
theorem laneVerdict_header {n l1 l0 q a1 a2 a3 a4 a5 a6 a7 a8 a9 a10 ck} (h1 : 13 ≤ nat16 l1 l0) :
    laneVerdict n none [l1, l0, q, LaneKind.record, a1, a2, a3, a4, a5, a6, a7, a8, a9, a10, ck] ≠ none := by
  unfold laneVerdict
  dsimp only
  split
  · exact nofun
  · rw [if_pos (by simp; omega), if_pos ⟨rfl, h1⟩]
    exact nofun

/-- A good lane frame is taken by its kind and body, whichever row names it (R28). -/
theorem goodLaneFrame_exec (n kind body) (s : State) : ∃ k b,
    exec (goodLaneFrame n kind body) s = s.event (State.laneGoodFrame n k b) ∧ (k = LaneKind.record → kind = LaneKind.record) := by
  unfold goodLaneFrame
  repeat' split
  all_goals first
    | exact ⟨_, _, rfl, fun h => h⟩
    | exact ⟨_, _, rfl, fun h => absurd h (by decide)⟩

end Sys2Proof.Machine
end

