-- ==== Sys2Proof/Laws/Step.lean ====
section
/-! SUPPORT. How a law of the state is shown to hold after every step: one case for each way a command acts. -/

namespace Sys2Proof.Machine

/-- An event keeps a law when its effect does. -/
theorem State.event_keeps {P : State → Prop} {f : State → State} {s t : State} (h : P s) (hf : s.running = true → P (f s))
    (he : s.event f = .next t) : P t := by
  simp only [State.event, Host.Outcome.next.injEq] at he
  subst he
  split
  · exact hf ‹_›
  · exact h

/-- The execution of a request keeps a law when its refusal and its block's action do. -/
theorem State.withRequest_keeps {P : State → Prop} {row : Frame → Bool} {act : Frame → State → State} {s : State} (h : P s)
    (hbad : ∀ r rest, Starts s r rest → P (s.popRequest.finish r [Result.badLength]))
    (hact : ∀ r rest, Starts s r rest → row r = true → P (act r s.popRequest)) : P (s.withRequest row act) := by
  unfold State.withRequest
  split
  · rename_i r hr
    obtain ⟨rest, hs⟩ := (State.startable_iff s r).1 hr
    split
    · split
      · exact hact r rest hs ‹_›
      · exact hbad r rest hs
    · exact h
  · exact h

/-- A law that does not speak of the control link is kept by a request row when its block's action keeps it. -/
theorem State.request_keeps {P : State → Prop} {kind : Byte} {act : List Byte → State → State × List Byte} {s t : State}
    (h : P s) (hlink : ∀ s k, P s → P { s with link := k }) (hact : ∀ body, P (act body s.popRequest).1)
    (he : s.request kind act = .next t) : P t := by
  simp only [State.request, Host.Outcome.next.injEq] at he
  subst he
  have hfin : ∀ (u : State) r b, P u → P (u.finish r b) := by
    intro u r b hu
    simp only [State.finish, State.finishWith, State.place_eq]
    exact hlink u _ hu
  exact State.withRequest_keeps h (fun r rest _ => hfin _ _ _ (hlink s _ h)) fun r rest _ _ => hfin _ _ _ (hact r.body)

/-- A law holds after every step when it does not speak of the command queue nor of the receivers and their lines, every command
keeps it, and a tick keeps it when nothing of the part's own is due. -/
theorem step_keeps {P : State → Prop} (hpend : ∀ s cs, P s → P { s with pending := cs })
    (htakes : ∀ s t, P s → Takes s t → P t)
    (hexec : ∀ i s t, P s → exec i s = .next t → P t) (htick : ∀ s, P s → s.ownEvent = none → P s.tick) {s t : State} (h : P s)
    (hs : step s = .next t) : P t := by
  unfold step at hs
  split at hs
  · exact hexec _ _ _ (hpend s _ h) hs
  · split at hs
    · exact hexec _ _ _ h hs
    · split at hs
      · exact hexec _ _ _ (htakes _ _ h (State.receive_takes ‹_›)) hs
      · cases hs
        exact htakes _ _ h (State.receive_takes ‹_›)
      · cases hs
        exact htick s h ‹_›

end Sys2Proof.Machine
end

