-- ==== Sys2Proof/Laws/LinkOk.lean ====
section
/-! SUPPORT. The link law (R152 to R168): what each operation of the Control Link Controller does to it. -/

namespace Sys2Proof.Machine

/-- What the link law says of a Control Link Controller. -/
structure Link.Ok (k : Link) : Prop where
  requests : k.requests.length ≤ 4
  cache : k.cache.length ≤ 4
  outbound : k.outbound.length ≤ 8
  room : k.executing.isSome = true → k.outbound.length ≤ 7
  idle : k.sending = none → k.outbound = []
  syncs : k.executing = none → k.syncWaiting = []
  numbers : ∀ x, k.expected = some x → k.numbers = numbersBefore x k.numbers.length
  unnumbered : k.expected = none → k.numbers = []
  unsynced : k.expected = none ↔ k.state = .unsynced
  cached : ∀ e ∈ k.cache, e.frame.seq = e.seq
  reset : k.resetPending = k.outgoing.any OutFrame.isReset
  resetIdle : k.resetPending = true → k.executing = none

theorem LinkLaw.iff (s : State) : LinkLaw s ↔ s.link.Ok :=
  ⟨fun ⟨h1, h2, h3, h4, h5, h6, h7, h8, h9, h10, h11, h12⟩ => ⟨h1, h2, h3, h4, h5, h6, h7, h8, h9, h10, h11, h12⟩,
    fun ⟨h1, h2, h3, h4, h5, h6, h7, h8, h9, h10, h11, h12⟩ => ⟨h1, h2, h3, h4, h5, h6, h7, h8, h9, h10, h11, h12⟩⟩

namespace Link.Ok
variable {k : Link}

/-- What is no part of the law may change. -/
theorem of_eq {k' : Link} (h : k.Ok) (h1 : k'.requests = k.requests) (h2 : k'.cache = k.cache) (h3 : k'.outbound = k.outbound)
    (h4 : k'.executing = k.executing) (h5 : k'.sending = k.sending) (h6 : k'.syncWaiting = k.syncWaiting)
    (h7 : k'.expected = k.expected) (h8 : k'.state = .unsynced ↔ k.state = .unsynced) (h9 : k'.resetPending = k.resetPending) : k'.Ok := by
  have hn : k'.numbers = k.numbers := by unfold Link.numbers; rw [h1, h2, h4]
  have ho : k'.outgoing = k.outgoing := by unfold Link.outgoing; rw [h3, h5]
  exact ⟨by rw [h1]; exact h.1, by rw [h2]; exact h.2, by rw [h3]; exact h.3, by rw [h3, h4]; exact h.4, by rw [h3, h5]; exact h.5,
    by rw [h4, h6]; exact h.6, by rw [h7, hn]; exact h.7, by rw [h7, hn]; exact h.8, by rw [h7, h8]; exact h.9, by rw [h2]; exact h.10,
    by rw [h9, ho]; exact h.11, by rw [h9, h4]; exact h.12⟩

theorem outgoing_send (f : OutFrame) (h : k.sending = none → k.outbound = []) : (k.send f).outgoing = k.outgoing ++ [f] := by
  unfold Link.send Link.outgoing
  rcases hs : k.sending with _ | g
  · have := h hs; simp [this]
  · simp

theorem outbound_send (f : OutFrame) : (k.send f).outbound.length ≤ k.outbound.length + 1 := by
  unfold Link.send; split <;> simp_all


theorem send_fields (f : OutFrame) : (k.send f).requests = k.requests ∧ (k.send f).cache = k.cache ∧ (k.send f).executing = k.executing ∧
    (k.send f).syncWaiting = k.syncWaiting ∧ (k.send f).expected = k.expected ∧ (k.send f).state = k.state ∧
    (k.send f).resetPending = k.resetPending := by
  unfold Link.send; split <;> exact ⟨rfl, rfl, rfl, rfl, rfl, rfl, rfl⟩

theorem sending_send (f : OutFrame) : (k.send f).sending ≠ none := by
  unfold Link.send; split <;> simp_all

/-- A frame is placed with room for it; `p` says that a RESET(PART) response is outgoing afterwards. -/
theorem send {f : OutFrame} {p : Bool} (h : k.Ok) (hroom : k.outbound.length < if k.executing.isSome then 7 else 8)
    (hp : p = (k.resetPending || f.isReset)) (hx : f.isReset = true → k.executing = none) :
    (({ k with resetPending := p } : Link).send f).Ok := by
  set k' : Link := { k with resetPending := p } with hk
  obtain ⟨e1, e2, e3, e4, e5, e6, e7⟩ := send_fields (k := k') f
  have hl := outbound_send (k := k') f
  have ho := outgoing_send (k := k') f h.idle
  have hn : (k'.send f).numbers = k.numbers := by unfold Link.numbers; rw [e1, e2, e3]
  have hb : k'.outbound = k.outbound := rfl
  refine ⟨by rw [e1]; exact h.1, by rw [e2]; exact h.2, ?_, ?_, fun hs => absurd hs (sending_send f), by rw [e3, e4]; exact h.6,
    by rw [e5, hn]; exact h.7, by rw [e5, hn]; exact h.8, by rw [e5, e6]; exact h.9, by rw [e2]; exact h.10, ?_, ?_⟩
  · rw [hb] at hl; split at hroom <;> omega
  · rw [e3]; intro hs; rw [hb] at hl; rw [if_pos (by exact hs)] at hroom; omega
  · rw [e7, ho, List.any_append, show k'.outgoing = k.outgoing from rfl, ← h.11]; simp [hk, hp]
  · rw [e7, e3]; intro hpp
    have : p = true := hpp
    rw [hp, Bool.or_eq_true] at this
    exact this.elim h.12 hx

theorem send_plain {f : OutFrame} (h : k.Ok) (hroom : k.outbound.length < if k.executing.isSome then 7 else 8)
    (hf : f.isReset = false) : (k.send f).Ok :=
  send (p := k.resetPending) h hroom (by simp [hf]) (by simp [hf])

theorem numbersBefore_length (x : Byte) (n : Nat) : (numbersBefore x n).length = n := by
  induction n generalizing x with
  | zero => rfl
  | succ n ih => simp [numbersBefore, ih]

theorem numbersBefore_drop (x : Byte) (n d : Nat) : (numbersBefore x n).drop d = numbersBefore x (n - d) := by
  induction n generalizing x d with
  | zero => simp [numbersBefore]
  | succ n ih =>
    by_cases h : d ≤ n
    · rw [show n + 1 - d = (n - d) + 1 by omega]
      simp only [numbersBefore]
      rw [List.drop_append_of_le_length (by rw [numbersBefore_length]; exact h), ih]
    · rw [show n + 1 - d = 0 by omega, List.drop_of_length_le (by rw [numbersBefore_length]; omega)]; rfl

/-- A request or the request in execution enters the cache, and the oldest entries fall out. -/
theorem cachePush {rest : List Frame} {x : Option Frame} {w : List Byte} {f : Frame} {c : LinkCounters} (h : k.Ok)
    (hq : k.executing.toList.map Frame.seq ++ k.requests.map Frame.seq = f.seq :: (x.toList.map Frame.seq ++ rest.map Frame.seq))
    (h1 : rest.length ≤ 4) (hx : x.isSome = true → k.outbound.length ≤ 7) (hw : x = none → w = [])
    (hr : k.resetPending = true → x = none) :
    ({ k with requests := rest, executing := x, syncWaiting := w, counters := c,
                 cache := (k.cache ++ [CacheEntry.mk f.seq f]).drop (k.cache.length + 1 - 4) } : Link).Ok := by
  set d := k.cache.length + 1 - 4 with hd
  have hnum : Link.numbers { k with
      requests := rest, executing := x, syncWaiting := w, counters := c, cache := (k.cache ++ [CacheEntry.mk f.seq f]).drop d } = k.numbers.drop d := by
    unfold Link.numbers; dsimp only
    rw [List.append_assoc, List.append_assoc, hq, List.map_drop, List.map_append, List.map_singleton]
    have : d ≤ (k.cache.map CacheEntry.seq ++ [f.seq]).length := by simp; omega
    rw [← List.drop_append_of_le_length this]
    simp
  refine ⟨h1, by simp; omega, h.3, hx, h.5, hw, ?_, ?_, h.9, ?_, h.11, hr⟩
  · intro y hy; rw [hnum, h.7 y hy, numbersBefore_drop, numbersBefore_length]
  · intro hy; rw [hnum, h.8 hy]; simp
  · intro e he
    have := List.mem_of_mem_drop he
    rcases List.mem_append.1 this with he | he
    · exact h.10 e he
    · simp only [List.mem_singleton] at he; subst he; rfl

/-- A new request joins the request queue (R158). -/
theorem enqueue {f : Frame} (h : k.Ok) (hx : k.expected = some f.seq) (hl : k.requests.length < 4) :
    ({ k with requests := k.requests ++ [f], expected := some (f.seq + 1) } : Link).Ok := by
  have hn : Link.numbers { k with requests := k.requests ++ [f], expected := some (f.seq + 1) } = k.numbers ++ [f.seq] := by
    unfold Link.numbers; simp
  refine ⟨by simp; omega, h.2, h.3, h.4, h.5, h.6, ?_, by simp, ?_, h.10, h.11, h.12⟩
  · intro y hy; cases hy
    rw [hn]
    have hsub : f.seq + 1 - 1 = f.seq := by ring
    simp only [List.length_append, List.length_singleton, numbersBefore, hsub]
    rw [← h.7 _ hx]
  · have : k.state ≠ .unsynced := fun hs => by have := h.9.2 hs; rw [hx] at this; cases this
    simp [this]

/-- SYNC (R166). -/
theorem sync {q : Byte} {st : LinkState} (h : k.Ok) (hs : st ≠ .unsynced) (he : k.executing = none) :
    ({ k with requests := [], cache := [], expected := some (q + 1), state := st } : Link).Ok := by
  refine ⟨by simp, by simp, h.3, h.4, h.5, h.6, ?_, by simp, by simp [hs], by simp, h.11, h.12⟩
  intro y _; unfold Link.numbers; simp [he, numbersBefore]

end Link.Ok

namespace LinkLaw
variable {s t : State}
theorem of_eq (h : LinkLaw s) (e : t.link = s.link) : LinkLaw t := by rw [LinkLaw.iff] at h ⊢; rw [e]; exact h
theorem countLink {f} (h : LinkLaw s) : LinkLaw (s.countLink f) := by
  rw [LinkLaw.iff] at h ⊢; exact h.of_eq rfl rfl rfl rfl rfl rfl rfl Iff.rfl rfl
theorem frameHeard (h : LinkLaw s) : LinkLaw s.frameHeard := by
  rw [LinkLaw.iff] at h ⊢; exact h.of_eq rfl rfl rfl rfl rfl rfl rfl Iff.rfl rfl
theorem placeResponse {f} (h : LinkLaw s) (hroom : s.answerRoom = true) : LinkLaw (s.place (.response f)) := by
  rw [State.place_eq]
  rw [LinkLaw.iff] at h ⊢
  exact Link.Ok.send_plain h (of_decide_eq_true hroom) rfl
theorem answer {f c} (h : LinkLaw s) : LinkLaw (s.answer f c) := by
  unfold State.answer; split
  · exact placeResponse (countLink h) ‹_›
  · exact countLink h
theorem syncStep {q} (h : LinkLaw s) (hr : s.answerRoom = true) (he : s.link.executing = none) : LinkLaw (s.syncStep q) := by
  unfold State.syncStep; dsimp only
  refine placeResponse ?_ hr
  rw [LinkLaw.iff] at h ⊢
  refine Link.Ok.sync h ?_ he
  split
  · simp
  · assumption
theorem takeSync {q} (h : LinkLaw s) (he : s.link.executing = none) : LinkLaw (s.takeSync q) ∧ (s.takeSync q).link.executing = none := by
  unfold State.takeSync; split
  · refine ⟨syncStep h ‹_› he, ?_⟩
    unfold State.syncStep; dsimp only; rw [State.place_eq]; exact (Link.Ok.send_fields _).2.2.1.trans he
  · exact ⟨countLink h, he⟩
theorem foldSyncs {l : List Byte} (h : LinkLaw s) (he : s.link.executing = none) : LinkLaw (l.foldl (fun s seq => s.takeSync seq) s) := by
  induction l generalizing s with
  | nil => exact h
  | cons q l ih => exact ih (takeSync h he).1 (takeSync h he).2
theorem frameArrives {f} (h : LinkLaw s) : LinkLaw (s.frameArrives f) := by
  unfold State.frameArrives; dsimp only
  have h' : LinkLaw s.frameHeard := frameHeard h
  have hnew : ∀ u : State, LinkLaw u → u.link.expected = some f.seq → LinkLaw (u.takeNew f) := by
    intro u hu hx; unfold State.takeNew; split
    · exact answer hu
    · split
      · rw [LinkLaw.iff] at hu ⊢; exact Link.Ok.enqueue hu hx ‹_›
      · exact answer hu
  have hsyn : ∀ u : State, LinkLaw u → LinkLaw (u.takeSynced f) := by
    intro u hu; unfold State.takeSynced; split
    · exact hnew u hu ‹_›
    · split
      · exact hu
      · split
        · unfold State.resend; split
          · exact hu
          · exact answer hu
        · exact answer hu
  split
  · exact h'
  · split
    · unfold State.syncArrives; split
      · exact answer h'
      · split
        · rename_i hx
          rw [LinkLaw.iff] at h' ⊢
          exact ⟨h'.1, h'.2, h'.3, h'.4, h'.5, fun hn => by rw [show s.frameHeard.link.executing = none from hn] at hx; exact absurd hx (by simp), h'.7, h'.8, h'.9, h'.10, h'.11, h'.12⟩
        · rename_i hx
          refine (takeSync h' ?_).1
          simpa using hx
    · split
      · unfold State.takeUnsynced; split <;> exact answer h'
      · exact hsyn _ h'
      · exact hsyn _ h'
theorem linkErrorTaken {f} (h : LinkLaw s) : LinkLaw (s.linkErrorTaken f) := by
  rw [LinkLaw.iff] at h ⊢
  unfold State.linkErrorTaken; dsimp only
  split
  · rename_i hk
    have : s.link.state = .opened := hk.2
    exact h.of_eq rfl rfl rfl rfl rfl rfl rfl (by simp [this]) rfl
  · exact h.of_eq rfl rfl rfl rfl rfl rfl rfl Iff.rfl rfl
theorem serveNotice (h : LinkLaw s) : LinkLaw s.serveNotice := by
  unfold State.serveNotice; split
  · rename_i k
    rw [LinkLaw.iff] at h ⊢
    have hr : s.link.resetPending = false := by have := k.2.2; unfold State.noticeWaits at this; simp at this; exact this.2
    refine ⟨h.1, h.2, h.3, h.4, fun hs => k.2.1, h.6, h.7, h.8, h.9, h.10, ?_, h.12⟩
    show s.link.resetPending = _
    rw [hr]; unfold Link.outgoing State.beginNotice State.countLink; dsimp only; rw [k.2.1]; rfl
  · exact h
/-- The request `r` has left the queue of a link that meets the law but for it (R161). -/
structure Popped (r : Frame) (k : Link) : Prop where
  ok : ({ k with requests := r :: k.requests } : Link).Ok
  executing : k.executing = none
  outbound : k.outbound.length < 8
  syncWaiting : k.syncWaiting = []
  resetPending : k.resetPending = false
/-- A request that can begin its execution leaves the queue so. -/
theorem popped {r rest} (h : LinkLaw s) (hs : Starts s r rest) : Popped r s.popRequest.link := by
  obtain ⟨_, he, ho, hsw, hrp, hreq⟩ := hs
  rw [LinkLaw.iff] at h
  have e : ({ s.popRequest.link with requests := r :: s.popRequest.link.requests } : Link) = s.link := by
    unfold State.popRequest; dsimp only; rw [hreq]; show ({ s.link with requests := r :: rest } : Link) = _; rw [← hreq]
  exact ⟨by rw [e]; exact h, he, ho, hsw, hrp⟩
/-- The execution of a request that has left the queue ends (R163, R164). -/
theorem finishWith {r b} {wrap : Frame → OutFrame} {p : Bool} {u : State} (h : Popped r u.link)
    (hp : (wrap ⟨r.seq, responseKind r.kind, b⟩).isReset = p) :
    LinkLaw (({ u with link := { u.link with resetPending := p } } : State).finishWith wrap r b) := by
  rw [State.finishWith_concluded, LinkLaw.iff]
  have hk := Link.Ok.cachePush (rest := u.link.requests) (x := none) (w := u.link.syncWaiting) (f := ⟨r.seq, responseKind r.kind, b⟩)
    (c := { u.link.counters with requestsExecuted := bump u.link.counters.requestsExecuted }) h.ok (by simp [h.executing])
    (by have := h.ok.1; simp at this; omega) (by simp) (fun _ => h.syncWaiting) (fun _ => rfl)
  have := Link.Ok.send (f := wrap ⟨r.seq, responseKind r.kind, b⟩) (p := p) hk (by simpa using h.outbound)
    (by simp [h.resetPending, hp]) (fun _ => rfl)
  show Link.Ok _
  convert this using 1
  unfold Link.concludedBy
  dsimp only; rw [h.executing]
theorem finish {r b} {u : State} (h : Popped r u.link) : LinkLaw (u.finish r b) := by
  have := finishWith (b := b) (wrap := .response) (p := false) h rfl
  have e : ({ u with link := { u.link with resetPending := false } } : State) = u := by rw [← h.resetPending]
  rwa [e] at this
/-- A request stays in execution (R89). -/
theorem commitRequest {r} {u : State} (h : Popped r u.link) : LinkLaw (u.commitRequest r) := by
  unfold State.commitRequest; split
  · exact finish h
  · split
    · rw [LinkLaw.iff]
      have k := h.ok
      refine ⟨by have := k.1; simp at this; dsimp only; omega, k.2, k.3, fun _ => Nat.le_of_lt_succ h.outbound, k.5, by simp, ?_, ?_, k.9, k.10, k.11, by simp [h.resetPending]⟩
      · intro x hx
        have := k.7 x hx
        unfold Link.numbers at this ⊢; simpa [h.executing] using this
      · intro hx
        have := k.8 hx
        unfold Link.numbers at this; simp at this
    · exact finish h
theorem takeCommit (h : LinkLaw s) : LinkLaw s.takeCommit := by
  unfold State.takeCommit; split
  · dsimp only
    rcases hx : s.link.executing with _ | r
    · dsimp only
      rw [LinkLaw.iff] at h ⊢
      exact h.of_eq rfl rfl rfl hx.symm rfl rfl rfl Iff.rfl rfl
    · dsimp only
      unfold State.takeWaitingSyncs State.finish
      rw [State.finishWith_concluded]
      rw [LinkLaw.iff] at h
      have ho := h.room (by rw [hx]; rfl)
      generalize commitBody s.classifier.commit = b
      have hk := Link.Ok.cachePush (rest := s.link.requests) (x := none) (w := []) (f := ⟨r.seq, responseKind r.kind, b⟩)
        (c := { s.link.counters with requestsExecuted := bump s.link.counters.requestsExecuted }) h (by simp [hx]) h.1 (by simp) (fun _ => rfl) (fun _ => rfl)
      have := Link.Ok.send_plain (f := .response ⟨r.seq, responseKind r.kind, b⟩) hk (by dsimp only; simp; omega) rfl
      refine foldSyncs ?_ ?_
      · rw [LinkLaw.iff]
        dsimp only
        convert this using 1
        unfold Link.concludedBy Link.send; dsimp only; split <;> rfl
      · exact (Link.Ok.send_fields _).2.2.1
  · exact h
theorem popSending {f : OutFrame} (h : LinkLaw s) (hs : s.link.sending = some f) (hf : f.isReset = false) :
    LinkLaw ({ s with link := { s.link with sending := none } } : State).pump := by
  rw [LinkLaw.iff] at h ⊢
  have hr := h.reset
  unfold Link.outgoing at hr; rw [hs] at hr; simp [hf] at hr
  unfold State.pump
  rcases ho : s.link.outbound with _ | ⟨g, rest⟩
  · simp only
    refine ⟨h.1, h.2, h.3, h.4, fun _ => ho, h.6, h.7, h.8, h.9, h.10, ?_, h.12⟩
    unfold Link.outgoing; rw [ho] at hr; simp [hr, ho]
  · simp only
    have h3 := h.3; have h4 := h.4
    rw [ho] at h3 h4; simp at h3 h4
    refine ⟨h.1, h.2, by dsimp only; omega, fun hx => by have := h4 hx; dsimp only; omega, by simp, h.6, h.7, h.8, h.9, h.10, ?_, h.12⟩
    unfold Link.outgoing; rw [ho] at hr; simp [hr]
theorem powerOn (p x r b) : LinkLaw (State.powerOn p x r b) := by
  rw [LinkLaw.iff]
  have : ∀ b, (Link.powerOn b).Ok := by
    intro b
    exact ⟨by simp [Link.powerOn], by simp [Link.powerOn], by simp [Link.powerOn], by simp [Link.powerOn], by simp [Link.powerOn], by simp [Link.powerOn], by simp [Link.powerOn], by simp [Link.powerOn, Link.numbers], by simp [Link.powerOn], by simp [Link.powerOn], by simp [Link.powerOn, Link.outgoing], by simp [Link.powerOn]⟩
  exact this b
end LinkLaw
end Sys2Proof.Machine
end

