-- ==== Sys2Proof/Laws/Notices.lean ====
section
/-! SUPPORT. The notice law (R136, R140, R141): what each operation of the Notice Unit does to it, and the operations of the
other blocks. -/

namespace Sys2Proof.Machine

/-- What the notice law says of a Notice Unit beside a link that is synced or not. -/
structure Notice.Ok (synced : Bool) (n : Notice) : Prop where
  kinds : (n.alerts.map AlertEntry.kind).Nodup
  counts : ∀ a ∈ n.alerts, 1 ≤ a.count ∧ a.count ≤ 255
  snapshot : n.snapshot.isSome = true ↔ n.state = .awaitingAck
  renotice : n.renotice.isSome = true → n.state = .awaitingAck ∧ n.enabled = true
  timer : n.state = .awaitingAck → n.enabled = true → n.interval ≠ 0 → n.renotice.isSome = true
  waiting : n.state = .waitingLink → n.enabled = true
  linked : n.state ≠ .quiet → synced = true
  quiet : n.state = .quiet → ¬(n.wanted = true ∧ n.enabled = true ∧ synced = true)

/-- The notice law speaks of the Notice Unit and of whether the link is synced. -/
theorem NoticeLaw.iff (s : State) : NoticeLaw s ↔ s.notice.Ok s.synced := by
  have e : s.synced = true ↔ s.link.state ≠ .unsynced := by simp [State.synced]
  constructor
  · rintro ⟨h1, h2, h3, h4, h5, h6, h7, h8⟩
    exact ⟨h1, h2, h3, h4, h5, h6, fun h => e.2 (h7 h), fun h k => h8 h ⟨k.1, k.2.1, e.1 k.2.2⟩⟩
  · rintro ⟨h1, h2, h3, h4, h5, h6, h7, h8⟩
    exact ⟨h1, h2, h3, h4, h5, h6, fun h => e.1 (h7 h), fun h k => h8 h ⟨k.1, k.2.1, e.2 k.2.2⟩⟩

/-- The kinds in the alert set after a raise (R137). -/
theorem raiseAlert_kinds (k : AlertKind) (x : Byte) (l : List AlertEntry) :
    (raiseAlert k x l).map AlertEntry.kind = if k ∈ l.map AlertEntry.kind then l.map AlertEntry.kind else l.map AlertEntry.kind ++ [k] := by
  induction l with
  | nil => simp [raiseAlert]
  | cons a l ih =>
    unfold raiseAlert; split
    · rename_i h; subst h; simp
    · rename_i h
      simp only [List.map_cons, ih, List.mem_cons, Ne.symm h, false_or]
      split <;> rfl

theorem raiseAlert_nodup {k : AlertKind} {x : Byte} {l : List AlertEntry} (h : (l.map AlertEntry.kind).Nodup) :
    ((raiseAlert k x l).map AlertEntry.kind).Nodup := by
  rw [raiseAlert_kinds]; split
  · exact h
  · rename_i hk
    rw [List.nodup_append]
    refine ⟨h, by simp, ?_⟩
    intro a ha b hb; simp only [List.mem_singleton] at hb; subst hb; rintro rfl; exact hk ha

theorem raiseAlert_counts {k : AlertKind} {x : Byte} {l : List AlertEntry} (h : ∀ a ∈ l, 1 ≤ a.count ∧ a.count ≤ 255) :
    ∀ a ∈ raiseAlert k x l, 1 ≤ a.count ∧ a.count ≤ 255 := by
  induction l with
  | nil => intro a ha; simp only [raiseAlert, List.mem_singleton] at ha; subst ha; exact ⟨le_refl 1, (by decide : 1 ≤ 255)⟩
  | cons b l ih =>
    intro a ha
    unfold raiseAlert at ha; split at ha
    · rcases List.mem_cons.1 ha with rfl | ha
      · have := h b (by simp); simp only [satAdd]; omega
      · exact h a (by simp [ha])
    · rcases List.mem_cons.1 ha with rfl | ha
      · exact h _ (by simp)
      · exact ih (fun a ha => h a (by simp [ha])) a ha

namespace Notice.Ok
variable {b : Bool} {n : Notice}

/-- The request of R141: from QUIET it is placed whenever it is wanted and allowed. -/
theorem request (h1 : (n.alerts.map AlertEntry.kind).Nodup) (h2 : ∀ a ∈ n.alerts, 1 ≤ a.count ∧ a.count ≤ 255)
    (h3 : n.snapshot = none) (h4 : n.renotice = none) (hq : n.state = .quiet) : (n.request b).Ok b := by
  unfold Notice.request; split
  · rename_i h
    exact ⟨h1, h2, by simp [h3], by simp [h4], by simp, fun _ => h.2.2.1, fun _ => h.2.2.2, by simp⟩
  · rename_i h
    refine ⟨h1, h2, by simp [h3, hq], by simp [h4], by simp [hq], by simp [hq], by simp [hq], fun _ k => h ⟨hq, k⟩⟩

/-- Outside AWAITING_ACK there is no snapshot and the renotice timer is stopped. -/
theorem quietFields (h : n.Ok b) (hq : n.state ≠ .awaitingAck) : n.snapshot = none ∧ n.renotice = none := by
  constructor
  · rw [← Option.not_isSome_iff_eq_none]; exact fun k => hq (h.snapshot.1 k)
  · rw [← Option.not_isSome_iff_eq_none]; exact fun k => hq (h.renotice k).1

theorem markDirty (h : n.Ok b) : n.markDirty.Ok b := ⟨h.1, h.2, h.3, h.4, h.5, h.6, h.7, h.8⟩

/-- New alerts or levels in a state other than QUIET. -/
theorem change {a : List AlertEntry} {l : Vector Level 8} (h : n.Ok b) (h1 : (a.map AlertEntry.kind).Nodup)
    (h2 : ∀ x ∈ a, 1 ≤ x.count ∧ x.count ≤ 255) (hq : n.state ≠ .quiet) : ({ n with alerts := a, levels := l } : Notice).Ok b :=
  ⟨h1, h2, h.3, h.4, h.5, h.6, h.7, fun k => absurd k hq⟩

/-- A raise (R137). -/
theorem raise {k x} (h : n.Ok b) : (n.raise k x b).Ok b := by
  unfold Notice.raise; dsimp only
  have h1 := raiseAlert_nodup (k := k) (x := x) h.kinds
  have h2 := raiseAlert_counts (k := k) (x := x) h.counts
  split
  · rename_i hq
    have hf := h.quietFields (by simp [hq])
    exact request h1 h2 hf.1 hf.2 hq
  · rename_i hq; exact change h h1 h2 (by simp [hq])
  · rename_i hq
    have hc := change (l := n.levels) h h1 h2 (by simp [hq])
    split
    · exact hc.markDirty
    · exact hc

/-- A change of the levels after which no queue is newly due. -/
theorem setLevels {l : Vector Level 8} (h : n.Ok b) (hd : ({ n with levels := l } : Notice).anyDue = true → n.anyDue = true) :
    ({ n with levels := l } : Notice).Ok b := by
  refine ⟨h.1, h.2, h.3, h.4, h.5, h.6, h.7, fun hq k => h.8 hq ⟨?_, k.2⟩⟩
  have := k.1
  unfold Notice.wanted at this ⊢
  simp only [Bool.or_eq_true] at this ⊢
  exact this.imp id hd

/-- Some queue is due. -/
theorem anyDue_iff (n : Notice) : n.anyDue = true ↔ ∃ q : QueueId, n.levels[q].due = true := by
  unfold Notice.anyDue
  simp only [List.any_eq_true, Vector.mem_toList_iff, Vector.mem_iff_getElem]
  constructor
  · rintro ⟨x, ⟨i, hi, rfl⟩, h⟩; exact ⟨⟨i, hi⟩, h⟩
  · rintro ⟨q, h⟩; exact ⟨_, ⟨q.val, q.isLt, rfl⟩, h⟩

/-- A fresh evaluation of a due state (R139). -/
theorem evalDue {q c k now} (h : n.Ok b) : (n.evalDue q c k now b).Ok b := by
  unfold Notice.evalDue; dsimp only; split
  · rename_i hd
    unfold Notice.becameDue; split
    · rename_i hq
      have hq' : n.state = .quiet := hq
      have hf := h.quietFields (by simp [hq'])
      exact request h.1 h.2 hf.1 hf.2 hq
    · rename_i hq; exact change (a := n.alerts) h h.1 h.2 (by rw [show n.state = _ from hq]; simp)
    · rename_i hq
      have hc := change (a := n.alerts) (l := n.levels.set q { n.levels[q] with due := isDue c k n.levels[q] now }) h h.1 h.2 (by rw [show n.state = _ from hq]; simp)
      split
      · exact hc
      · exact hc.markDirty
  · rename_i hd
    refine setLevels h fun hk => ?_
    rw [anyDue_iff] at hk ⊢
    obtain ⟨p, hp⟩ := hk
    rw [show ({ n with levels := n.levels.set q { n.levels[q] with due := isDue c k n.levels[q] now } } : Notice).levels[p] =
      (n.levels.set q { n.levels[q] with due := isDue c k n.levels[q] now })[p] from rfl, vector_set_get] at hp
    split at hp
    · rename_i e; subst e
      refine ⟨q, ?_⟩
      by_contra hn
      apply hd
      simp only [Bool.and_eq_true, Bool.not_eq_true', Bool.not_eq_true] at hn ⊢
      exact ⟨hp, hn⟩
    · exact ⟨p, hp⟩

/-- A change of a queued count (R138). -/
theorem follow {q c o k now} (h : n.Ok b) : (n.follow q c o k now b).Ok b := by
  unfold Notice.follow
  apply evalDue
  refine setLevels h fun hk => ?_
  rw [anyDue_iff] at hk ⊢
  obtain ⟨p, hp⟩ := hk
  have hfl : ∀ l : Level, (followLevel l o k now).due = l.due := by
    intro l; unfold followLevel; split
    · rfl
    · split <;> rfl
  rw [show ({ n with levels := n.levels.set q (followLevel n.levels[q] o k now) } : Notice).levels[p] = (n.levels.set q (followLevel n.levels[q] o k now))[p] from rfl, vector_set_get] at hp
  split at hp
  · rename_i e; subst e; exact ⟨q, by rw [hfl] at hp; exact hp⟩
  · exact ⟨p, hp⟩

/-- The beginning of a notice (R142). -/
theorem began {sn now} (h : n.Ok b) (hw : n.state = .waitingLink) : (n.began sn now).Ok b := by
  have hs := h.linked (by simp [hw])
  refine ⟨h.1, h.2, by simp [Notice.began], ?_, ?_, by simp [Notice.began], fun _ => hs, by simp [Notice.began]⟩
  · unfold Notice.began Notice.renoticeDeadline; dsimp only; split
    · rename_i k; exact fun _ => ⟨rfl, k.2⟩
    · simp
  · unfold Notice.began Notice.renoticeDeadline; dsimp only; intro _ k1 k2; rw [if_pos ⟨k2, k1⟩]; rfl

/-- A renotice (R147). -/
theorem renew (h : n.Ok b) (ha : n.state = .awaitingAck) (hr : n.renotice.isSome = true) : n.renew.Ok b :=
  ⟨h.1, h.2, by simp [Notice.renew], by simp [Notice.renew], by simp [Notice.renew], fun _ => (h.renotice hr).2,
    fun _ => h.linked (by simp [ha]), by simp [Notice.renew]⟩

/-- The subtraction of the reported alerts (R145). -/
theorem subtract_nodup {r l : List AlertEntry} (h : (l.map AlertEntry.kind).Nodup) : ((subtractAlerts r l).map AlertEntry.kind).Nodup := by
  induction l with
  | nil => simp [subtractAlerts]
  | cons a l ih =>
    simp only [List.map_cons, List.nodup_cons] at h
    have hsub : ∀ x ∈ (subtractAlerts r l).map AlertEntry.kind, x ∈ l.map AlertEntry.kind := by
      intro x hx
      simp only [subtractAlerts, List.mem_map, List.mem_filterMap] at hx
      obtain ⟨e, ⟨a', ha', he⟩, rfl⟩ := hx
      refine List.mem_map.2 ⟨a', ha', ?_⟩
      split at he
      · cases he; rfl
      · split at he
        · cases he
        · cases he; rfl
    have ih' := ih h.2
    unfold subtractAlerts at ih' hsub ⊢
    rw [List.filterMap_cons]
    split
    · exact ih'
    · rename_i e he
      have : e.kind = a.kind := by
        split at he
        · cases he; rfl
        · split at he
          · cases he
          · cases he; rfl
      simp only [List.map_cons, List.nodup_cons, this]
      exact ⟨fun k => h.1 (hsub _ k), ih'⟩

theorem subtract_counts {r l : List AlertEntry} (h : ∀ a ∈ l, 1 ≤ a.count ∧ a.count ≤ 255) :
    ∀ a ∈ subtractAlerts r l, 1 ≤ a.count ∧ a.count ≤ 255 := by
  intro a ha
  simp only [subtractAlerts, List.mem_filterMap] at ha
  obtain ⟨a', ha', he⟩ := ha
  have := h a' ha'
  split at he
  · cases he; exact this
  · split at he
    · cases he
    · cases he; dsimp only; omega

/-- NOTICE_CONFIG acts on the notice state (R148). -/
theorem applyEnable {now} (h1 : (n.alerts.map AlertEntry.kind).Nodup) (h2 : ∀ a ∈ n.alerts, 1 ≤ a.count ∧ a.count ≤ 255)
    (h3 : n.snapshot.isSome = true ↔ n.state = .awaitingAck) (h4 : n.renotice.isSome = true → n.state = .awaitingAck)
    (h5 : n.state ≠ .quiet → b = true) : (n.applyEnable now b).Ok b := by
  have hn : n.state ≠ .awaitingAck → n.snapshot = none ∧ n.renotice = none := fun hq =>
    ⟨by rw [← Option.not_isSome_iff_eq_none]; exact fun k => hq (h3.1 k), by rw [← Option.not_isSome_iff_eq_none]; exact fun k => hq (h4 k)⟩
  unfold Notice.applyEnable; split <;> rename_i hs he
  · have := hn (by simp [hs]); exact ⟨h1, h2, h3, by simp [this], by simp [hs], by simp [hs], h5, fun _ k => by simp [he] at k⟩
  · have := hn (by simp [hs]); exact request h1 h2 this.1 this.2 hs
  · have := hn (by simp [hs]); exact ⟨h1, h2, by simp [this], by simp [this], by simp, by simp, by simp, fun _ k => by simp [he] at k⟩
  · have := hn (by simp [hs]); exact ⟨h1, h2, h3, by simp [this], by simp [hs], fun _ => he, h5, by simp [hs]⟩
  · exact ⟨h1, h2, h3, by simp, by simp [he], by simp [hs], h5, by simp [hs]⟩
  · split
    · rename_i hr; exact ⟨h1, h2, h3, fun _ => ⟨hs, he⟩, fun _ _ _ => hr, by simp [hs], h5, by simp [hs]⟩
    · refine ⟨h1, h2, h3, fun _ => ⟨hs, he⟩, ?_, by simp [hs], h5, by simp [hs]⟩
      intro _ _ k; unfold Notice.renoticeDeadline; rw [if_pos ⟨k, he⟩]; rfl

/-- A matching acknowledgement (R145, R146). -/
theorem acknowledge {s : State} {sn} (h : s.notice.Ok s.synced) (ha : s.notice.state = .awaitingAck) :
    (s.acknowledge sn).notice.Ok s.synced := by
  have hs := h.linked (by simp [ha])
  have h1 := subtract_nodup (r := sn.alerts) h.1
  have h2 := subtract_counts (r := sn.alerts) h.2
  unfold State.acknowledge; dsimp only
  split
  · rename_i k
    exact ⟨h1, h2, by simp, by simp, by simp, fun _ => k.1, fun _ => hs, by simp⟩
  · rename_i k
    refine ⟨h1, h2, by simp, by simp, by simp, by simp, by simp, fun _ hw => k ⟨hw.2.1, ?_⟩⟩
    simp only [Bool.or_eq_true]; exact Or.inr hw.1

/-- SYNC at the Notice Unit (R149). -/
theorem syncNotice {s : State} {b} (h : s.notice.Ok b) : s.syncNotice.notice.Ok s.synced := by
  unfold State.syncNotice State.requestNotice; dsimp only
  exact request h.1 h.2 rfl rfl rfl
end Notice.Ok

namespace NoticeLaw
variable {s t : State}

theorem of_eq (h : NoticeLaw s) (hn : t.notice = s.notice) (hl : t.link.state = s.link.state) : NoticeLaw t := by
  rw [NoticeLaw.iff] at h ⊢; rw [hn]; unfold State.synced at h ⊢; rw [hl]; exact h

/-- What a lane does keeps the law. -/
theorem laneSide (k : LaneSide s t) (h : NoticeLaw s) : NoticeLaw t := by
  rw [NoticeLaw.iff] at h ⊢
  have e : t.synced = s.synced := by unfold State.synced; rw [k.link]
  rw [e]; exact k.notice _ (fun _ _ _ h => h.raise) h

/-- What the queues and the deliveries do keeps the law. -/
theorem queueSide (k : QueueSide s t) (h : NoticeLaw s) : NoticeLaw t := by
  rw [NoticeLaw.iff] at h ⊢
  rw [k.synced]; exact k.notice _ (fun _ _ _ h => h.raise) (fun _ _ _ _ _ h => h.follow) (fun _ _ _ _ h => h.evalDue) h

theorem raise {k x} (h : NoticeLaw s) : NoticeLaw (s.raise k x) := laneSide (.raise (.refl s)) h

theorem place {f} (h : NoticeLaw s) : NoticeLaw (s.place f) := by
  rw [State.place_eq]
  have : (s.link.send f).state = s.link.state := by unfold Link.send; split <;> rfl
  exact h.of_eq rfl this

theorem pump (h : NoticeLaw s) : NoticeLaw s.pump := by unfold State.pump; split <;> exact h.of_eq rfl rfl

theorem countLink {f} (h : NoticeLaw s) : NoticeLaw (s.countLink f) := h.of_eq rfl rfl

theorem finishWith {w r b} (h : NoticeLaw s) : NoticeLaw (s.finishWith w r b) := by
  unfold State.finishWith; exact .place (h.of_eq rfl rfl)

theorem finish {r b} (h : NoticeLaw s) : NoticeLaw (s.finish r b) := by unfold State.finish; exact .finishWith h

theorem answer {f c} (h : NoticeLaw s) : NoticeLaw (s.answer f c) := by
  unfold State.answer; split
  · exact .place (.countLink h)
  · exact .countLink h

theorem linkErrorTaken {f} (h : NoticeLaw s) : NoticeLaw (s.linkErrorTaken f) := by
  unfold State.linkErrorTaken; dsimp only
  have h' : NoticeLaw (({ s with link := { s.link with errorFlag := true, reception := s.link.reception.rehunt } } : State).countLink f |>.raise .linkError 0) :=
    .raise (.countLink (h.of_eq rfl rfl))
  split
  · rename_i k
    rw [NoticeLaw.iff] at h' ⊢
    have e : s.synced = true := by
      have k2 : s.link.state = .opened := k.2
      simp [State.synced, k2]
    have e1 : State.synced (({ s with link := { s.link with errorFlag := true, reception := s.link.reception.rehunt } } : State).countLink f |>.raise .linkError 0) =
      true := e
    rw [e1] at h'; exact h'
  · exact h'

/-- SYNC (R149, R166). -/
theorem syncStep {q} (h : NoticeLaw s) : NoticeLaw (s.syncStep q) := by
  unfold State.syncStep; dsimp only
  refine .place ?_
  rw [NoticeLaw.iff] at h ⊢
  exact Notice.Ok.syncNotice (s := { s with link := _ }) (b := s.synced) h

theorem takeSync {q} (h : NoticeLaw s) : NoticeLaw (s.takeSync q) := by
  unfold State.takeSync; split
  · exact .syncStep h
  · exact .countLink h

theorem takeWaitingSyncs (h : NoticeLaw s) : NoticeLaw s.takeWaitingSyncs := by
  unfold State.takeWaitingSyncs
  have : ∀ (l : List Byte) (t : State), NoticeLaw t → NoticeLaw (l.foldl (fun s seq => s.takeSync seq) t) := by
    intro l
    induction l with
    | nil => exact fun t ht => ht
    | cons q l ih => exact fun t ht => ih _ (.takeSync ht)
  exact this _ _ (h.of_eq rfl rfl)

/-- A good frame (R158, R159, R166). -/
theorem frameArrives {f} (h : NoticeLaw s) : NoticeLaw (s.frameArrives f) := by
  unfold State.frameArrives; dsimp only
  have h' : NoticeLaw s.frameHeard := h.of_eq rfl rfl
  have hnew : ∀ u : State, NoticeLaw u → NoticeLaw (u.takeNew f) := by
    intro u hu; unfold State.takeNew; split
    · exact .answer hu
    · split
      · exact hu.of_eq rfl rfl
      · exact .answer hu
  have hsyn : ∀ u : State, NoticeLaw u → NoticeLaw (u.takeSynced f) := by
    intro u hu; unfold State.takeSynced; split
    · exact hnew u hu
    · split
      · exact hu
      · split
        · unfold State.resend; split
          · exact hu
          · exact .answer hu
        · exact .answer hu
  split
  · exact h'
  · split
    · unfold State.syncArrives; split
      · exact .answer h'
      · split
        · exact h'.of_eq rfl rfl
        · exact .takeSync h'
    · split
      · unfold State.takeUnsynced; split <;> exact .answer h'
      · exact hsyn _ h'
      · exact hsyn _ h'

theorem serveNotice (h : NoticeLaw s) : NoticeLaw s.serveNotice := by
  unfold State.serveNotice; split
  · rename_i k
    unfold State.beginNotice; dsimp only
    refine .countLink ?_
    have hw : s.notice.state = .waitingLink := by
      have := k.2.2; unfold State.noticeWaits at this; simp at this; exact this.1
    rw [NoticeLaw.iff] at h ⊢
    exact h.began hw
  · exact h

/-- NOTICE_CONFIG (R148). -/
theorem noticeConfigAct {b} (h : NoticeLaw s) : NoticeLaw (Machine.noticeConfigAct b s).1 := by
  unfold Machine.noticeConfigAct; split
  · exact h
  · rename_i enable interval watermark _
    rw [NoticeLaw.iff] at h
    dsimp only
    set u := ({ s with notice := { s.notice with enabled := enable, interval := interval } } : State).setWatermark watermark with hu
    have e : u.synced = s.synced := by
      have := (LaneSide.setWatermark (w := watermark) (.refl ({ s with notice := { s.notice with enabled := enable, interval := interval } } : State))).link
      unfold State.synced; rw [hu, this]
    rw [NoticeLaw.iff]
    show (u.notice.applyEnable u.clock u.synced).Ok u.synced
    rw [e]
    have key := (LaneSide.setWatermark (w := watermark) (.refl ({ s with notice := { s.notice with enabled := enable, interval := interval } } : State))).notice
      (fun n => (n.alerts.map AlertEntry.kind).Nodup ∧ (∀ a ∈ n.alerts, 1 ≤ a.count ∧ a.count ≤ 255) ∧
        (n.snapshot.isSome = true ↔ n.state = .awaitingAck) ∧ (n.renotice.isSome = true → n.state = .awaitingAck) ∧
        (n.state ≠ .quiet → s.synced = true)) ?_ ⟨h.1, h.2, h.3, fun k => (h.4 k).1, h.7⟩
    · exact Notice.Ok.applyEnable key.1 key.2.1 key.2.2.1 key.2.2.2.1 key.2.2.2.2
    · rintro n k x ⟨h1, h2, h3, h4, h5⟩
      have h1' := raiseAlert_nodup (k := k) (x := x) h1
      have h2' := raiseAlert_counts (k := k) (x := x) h2
      show _ ∧ _
      unfold Notice.raise Notice.request Notice.markDirty; dsimp only
      split
      · rename_i hs
        have hs' : n.state = .quiet := hs
        split
        · rename_i hc; exact ⟨h1', h2', by simpa [hs'] using h3, fun k => by simpa [hs'] using h4 k, fun _ => hc.2.2.2⟩
        · exact ⟨h1', h2', h3, h4, h5⟩
      · exact ⟨h1', h2', h3, h4, h5⟩
      · split <;> exact ⟨h1', h2', h3, h4, h5⟩

theorem powerOn (p x r b) : NoticeLaw (State.powerOn p x r b) := by
  have h : Notice.powerOn.Ok false := by
    refine ⟨by decide, by decide, by decide, by decide, by decide, by decide, by decide, fun _ k => absurd k.2.2 (by decide)⟩
  exact (NoticeLaw.iff _).2 h

end NoticeLaw

end Sys2Proof.Machine
end

