-- ==== Sys2Proof/WellFormed.lean ====
section
/-! DEFINITION. Which commands the links of the part can carry at all (R153, R183, R185). exec is total on the others too;
a command that is not well-formed stands for no event of the hardware. -/

namespace Sys2Proof

/-- A control link body is at most 1024 bytes (R183). -/
def controlBodyFits (body : List Byte) : Bool := decide (body.length ≤ 1024)

/-- A lane body is at most 258 bytes (R183). -/
def laneBodyFits (body : List Byte) : Bool := decide (body.length ≤ 258)

/-- A RECORD frame reaches its header decision only with a length field of 13 to 260: the sequence byte, the kind and a body
of at least the header and its check byte, and at most 258 bytes (R49, R183). -/
def recordLengthFits (length : Half) : Bool := decide (13 ≤ length.toNat) && decide (length.toNat ≤ 260)

/-- The check of a command's operands. -/
def Instr.WellFormed : Instr → Bool
  | .controlFrameReceived _ _ body => controlBodyFits body
  | .sync _ body => controlBodyFits body
  | .echo _ _ pattern _ => decide (pattern.length = 8)
  | .recordHeader _ length _ _ _ => recordLengthFits length
  | .recordEnd _ rest _ => decide (rest.length ≤ 262)
  | .laneProtocolError _ _ body => laneBodyFits body
  | .resetnAssert | .resetnRelease _ _ | .linkError _ | .gapError | .ident | .linkConfig | .clearError | .unknownRequest
  | .laneConfig | .laneOpen | .laneClose | .laneAbort | .ruleSet | .ruleGet | .defaultSet | .rulesCommit | .rulesRevert
  | .queueConfig | .queueGet | .queuePurge | .fetch | .release | .returnHandles | .extend | .noticeAck | .noticeConfig
  | .status | .counters | .resetPart | .partResetEffect | .resetStore | .controlFrameSent | .noticeBegin | .renoticeExpiry
  | .holdExpiry _ | .laneBadFrame _ | .laneCharGapExpiry _ | .probeIntervalExpiry _ | .probeWindowExpiry _
  | .laneFrameSent _ | .keepalive _ _ | .sourceClose _ | .closeAck _ | .silenceExpiry _ | .closeTimerExpiry _
  | .creditRefreshExpiry _ | .creditGrant | .walkEnd | .leaseExpiry _ => true

end Sys2Proof
end

