-- ==== Sys2Proof/Laws/PerInstr.lean ====
section
/-! SUPPORT. What the check of a command's operands says of each command: the operands a link can carry (R153, R183, R185). -/

namespace Sys2Proof.Laws.LinkCarries

/-- The bounds on a command's operands that the framing layer sets (R183, R185, R49). -/
def Fits : Instr → Prop
  | .controlFrameReceived _ _ body => body.length ≤ 1024
  | .sync _ body => body.length ≤ 1024
  | .echo _ _ pattern _ => pattern.length = 8
  | .recordHeader _ length _ _ _ => 13 ≤ length.toNat ∧ length.toNat ≤ 260
  | .recordEnd _ rest _ => rest.length ≤ 262
  | .laneProtocolError _ _ body => body.length ≤ 258
  | _ => True

/-- A command is well-formed exactly when its operands fit. -/
def Statement (i : Instr) : Prop := i.WellFormed = true ↔ Fits i

theorem resetnAssert : Statement .resetnAssert :=
  ⟨fun _ => trivial, fun _ => rfl⟩

theorem resetnRelease (bsel1 bsel0 : Bool) : Statement (.resetnRelease bsel1 bsel0) :=
  ⟨fun _ => trivial, fun _ => rfl⟩

theorem controlFrameReceived (seq kind : Byte) (body : List Byte) : Statement (.controlFrameReceived seq kind body) :=
  decide_eq_true_iff

theorem linkError (kind : LinkErrorKind) : Statement (.linkError kind) :=
  ⟨fun _ => trivial, fun _ => rfl⟩

theorem gapError : Statement .gapError :=
  ⟨fun _ => trivial, fun _ => rfl⟩

theorem sync (seq : Byte) (body : List Byte) : Statement (.sync seq body) :=
  decide_eq_true_iff

theorem ident : Statement .ident :=
  ⟨fun _ => trivial, fun _ => rfl⟩

theorem linkConfig : Statement .linkConfig :=
  ⟨fun _ => trivial, fun _ => rfl⟩

theorem clearError : Statement .clearError :=
  ⟨fun _ => trivial, fun _ => rfl⟩

theorem unknownRequest : Statement .unknownRequest :=
  ⟨fun _ => trivial, fun _ => rfl⟩

theorem laneConfig : Statement .laneConfig :=
  ⟨fun _ => trivial, fun _ => rfl⟩

theorem laneOpen : Statement .laneOpen :=
  ⟨fun _ => trivial, fun _ => rfl⟩

theorem laneClose : Statement .laneClose :=
  ⟨fun _ => trivial, fun _ => rfl⟩

theorem laneAbort : Statement .laneAbort :=
  ⟨fun _ => trivial, fun _ => rfl⟩

theorem ruleSet : Statement .ruleSet :=
  ⟨fun _ => trivial, fun _ => rfl⟩

theorem ruleGet : Statement .ruleGet :=
  ⟨fun _ => trivial, fun _ => rfl⟩

theorem defaultSet : Statement .defaultSet :=
  ⟨fun _ => trivial, fun _ => rfl⟩

theorem rulesCommit : Statement .rulesCommit :=
  ⟨fun _ => trivial, fun _ => rfl⟩

theorem rulesRevert : Statement .rulesRevert :=
  ⟨fun _ => trivial, fun _ => rfl⟩

theorem queueConfig : Statement .queueConfig :=
  ⟨fun _ => trivial, fun _ => rfl⟩

theorem queueGet : Statement .queueGet :=
  ⟨fun _ => trivial, fun _ => rfl⟩

theorem queuePurge : Statement .queuePurge :=
  ⟨fun _ => trivial, fun _ => rfl⟩

theorem fetch : Statement .fetch :=
  ⟨fun _ => trivial, fun _ => rfl⟩

theorem release : Statement .release :=
  ⟨fun _ => trivial, fun _ => rfl⟩

theorem returnHandles : Statement .returnHandles :=
  ⟨fun _ => trivial, fun _ => rfl⟩

theorem extend : Statement .extend :=
  ⟨fun _ => trivial, fun _ => rfl⟩

theorem noticeAck : Statement .noticeAck :=
  ⟨fun _ => trivial, fun _ => rfl⟩

theorem noticeConfig : Statement .noticeConfig :=
  ⟨fun _ => trivial, fun _ => rfl⟩

theorem status : Statement .status :=
  ⟨fun _ => trivial, fun _ => rfl⟩

theorem counters : Statement .counters :=
  ⟨fun _ => trivial, fun _ => rfl⟩

theorem resetPart : Statement .resetPart :=
  ⟨fun _ => trivial, fun _ => rfl⟩

theorem partResetEffect : Statement .partResetEffect :=
  ⟨fun _ => trivial, fun _ => rfl⟩

theorem resetStore : Statement .resetStore :=
  ⟨fun _ => trivial, fun _ => rfl⟩

theorem controlFrameSent : Statement .controlFrameSent :=
  ⟨fun _ => trivial, fun _ => rfl⟩

theorem noticeBegin : Statement .noticeBegin :=
  ⟨fun _ => trivial, fun _ => rfl⟩

theorem renoticeExpiry : Statement .renoticeExpiry :=
  ⟨fun _ => trivial, fun _ => rfl⟩

theorem holdExpiry (q : QueueId) : Statement (.holdExpiry q) :=
  ⟨fun _ => trivial, fun _ => rfl⟩

theorem laneBadFrame (n : LaneId) : Statement (.laneBadFrame n) :=
  ⟨fun _ => trivial, fun _ => rfl⟩

theorem laneCharGapExpiry (n : LaneId) : Statement (.laneCharGapExpiry n) :=
  ⟨fun _ => trivial, fun _ => rfl⟩

theorem echo (n : LaneId) (index : Byte) (pattern : List Byte) (next : Half) : Statement (.echo n index pattern next) :=
  decide_eq_true_iff

theorem probeIntervalExpiry (n : LaneId) : Statement (.probeIntervalExpiry n) :=
  ⟨fun _ => trivial, fun _ => rfl⟩

theorem probeWindowExpiry (n : LaneId) : Statement (.probeWindowExpiry n) :=
  ⟨fun _ => trivial, fun _ => rfl⟩

theorem laneFrameSent (n : LaneId) : Statement (.laneFrameSent n) :=
  ⟨fun _ => trivial, fun _ => rfl⟩

theorem recordHeader (n : LaneId) (length : Half) (seqByte : Byte) (h : RecordHeader) (check : Byte) : Statement (.recordHeader n length seqByte h check) :=
  (Bool.and_eq_true_iff).trans (and_congr decide_eq_true_iff decide_eq_true_iff)

theorem recordEnd (n : LaneId) (rest : List Byte) (crc : Half) : Statement (.recordEnd n rest crc) :=
  decide_eq_true_iff

theorem keepalive (n : LaneId) (next : Half) : Statement (.keepalive n next) :=
  ⟨fun _ => trivial, fun _ => rfl⟩

theorem sourceClose (n : LaneId) : Statement (.sourceClose n) :=
  ⟨fun _ => trivial, fun _ => rfl⟩

theorem closeAck (n : LaneId) : Statement (.closeAck n) :=
  ⟨fun _ => trivial, fun _ => rfl⟩

theorem laneProtocolError (n : LaneId) (kind : Byte) (body : List Byte) : Statement (.laneProtocolError n kind body) :=
  decide_eq_true_iff

theorem silenceExpiry (n : LaneId) : Statement (.silenceExpiry n) :=
  ⟨fun _ => trivial, fun _ => rfl⟩

theorem closeTimerExpiry (n : LaneId) : Statement (.closeTimerExpiry n) :=
  ⟨fun _ => trivial, fun _ => rfl⟩

theorem creditRefreshExpiry (n : LaneId) : Statement (.creditRefreshExpiry n) :=
  ⟨fun _ => trivial, fun _ => rfl⟩

theorem creditGrant : Statement .creditGrant :=
  ⟨fun _ => trivial, fun _ => rfl⟩

theorem walkEnd : Statement .walkEnd :=
  ⟨fun _ => trivial, fun _ => rfl⟩

theorem leaseExpiry (slot : SlotId) : Statement (.leaseExpiry slot) :=
  ⟨fun _ => trivial, fun _ => rfl⟩

end Sys2Proof.Laws.LinkCarries
end

