-- ==== Sys2Proof/Laws/Records.lean ====
section
/-! SUPPORT. The records that the lanes assemble: what a character or a command brings of their payload, and that taking a
character keeps the laws that speak of records (R1 to R6, R59). -/
namespace Sys2Proof.Machine

/-- The lanes after a character has been taken: one has another reception, and the payload it has received is stored. -/
theorem Takes.lane_eq {s t : State} (h : Takes s t) (m : LaneId) :
    t.lane m = s.lane m ∨ ∃ k, t.lane m = ({ s.lane m with reception := k } : Lane).storePayload := by
  cases h with
  | control => exact .inl rfl
  | lane n k line =>
    by_cases e : m = n
    · subst e; exact .inr ⟨k, State.lane_set { s with lines := _ } m _⟩
    · refine .inl ?_
      show (s.lanes.set n _)[m] = s.lanes[m]
      rw [vector_set_get, if_neg (Ne.symm e)]

/-- A character taken leaves every held record's length as it was (R1, R2, R6). -/
theorem Takes.heldRecords_blocks {s t : State} (h : Takes s t) :
    (heldRecords t).map Record.blocks = (heldRecords s).map Record.blocks := by
  have ha : ∀ m : LaneId, (t.lane m).assembly.toList.map Record.blocks = (s.lane m).assembly.toList.map Record.blocks := by
    intro m
    rcases h.lane_eq m with e | ⟨k, e⟩ <;> rw [e]
    rw [Lane.storePayload_assembly]
    cases (s.lane m).assembly <;> simp
  have hl : (allLanes.flatMap fun n => (t.lane n).assembly.toList).map Record.blocks =
      (allLanes.flatMap fun n => (s.lane n).assembly.toList).map Record.blocks := by
    rw [List.map_flatMap, List.map_flatMap]; simp only [ha]
  unfold heldRecords
  simp only [List.map_append]
  rw [hl]
  cases h <;> rfl

/-- A character taken keeps the account of the store (R1, R2, R17). -/
theorem Takes.keeps_MemoryLaw {s t : State} (h : Takes s t) (hm : MemoryLaw s) : MemoryLaw t := by
  have hb := h.heldRecords_blocks
  have hl : (heldRecords t).length = (heldRecords s).length := by simpa using congrArg List.length hb
  have hs : t.store = s.store := by cases h <;> rfl
  obtain ⟨h1, h2, h3, h4⟩ := hm
  unfold MemoryLaw
  rw [hb, hl, hs]
  refine ⟨h1, h2, fun m hr => ?_, h4⟩
  rcases h.lane_eq m with e | ⟨k, e⟩ <;> rw [e] at hr ⊢
  · exact h3 m hr
  · rw [Lane.storePayload_assembly, h3 m hr]; rfl

/-- A character taken keeps the law of the fields: what it brings of a payload is stored (R3, R5). -/
theorem Takes.keeps_FieldLaw {s t : State} (h : Takes s t) (hf : FieldLaw s) : FieldLaw t := by
  refine ⟨fun m r hr => ?_, ?_⟩
  · rcases h.lane_eq m with e | ⟨k, e⟩ <;> rw [e] at hr ⊢
    · exact hf.1 m r hr
    · rw [Lane.storePayload_assembly, Option.mem_def, Option.map_eq_some_iff] at hr
      obtain ⟨r, hr, rfl⟩ := hr
      obtain ⟨h1, h2, h3, h4, covered, h5, _⟩ := hf.1 m r hr
      have e : Lane.fillPayload { s.lane m with reception := k } r =
          { r with payload := (k.bytes.drop covered.length).take r.payloadLength } := by
        unfold Lane.fillPayload; simp only [h5]
      rw [e]
      exact ⟨h1, h2, h3, h4, covered, h5, rfl⟩
  · cases h <;> exact hf.2

/-- The frame being gathered has come to hold the bytes that a command brings. -/
theorem Lane.gathered_bytes (l : Lane) (bytes : List Byte) (now : Nat) : (l.gathered bytes now).reception.bytes = bytes := by
  unfold Lane.gathered Reception.bytes
  split
  · rename_i h; rw [List.map_drop, h]; rfl
  · simp [Function.comp_def]

/-- The bytes that RECORD_END brings behind a header decision are the payload, but for the CRC behind them. -/
theorem Lane.fillPayload_gathered {l : Lane} {covered rest crc : List Byte} {b} (h : l.receiver = .record covered rest.length b)
    (now : Nat) (r : Record) : (l.gathered (covered ++ rest ++ crc) now).fillPayload r = { r with payload := rest } := by
  have hr : (l.gathered (covered ++ rest ++ crc) now).receiver = .record covered rest.length b := by
    rw [← h]; unfold Lane.gathered; split <;> rfl
  unfold Lane.fillPayload
  rw [hr, Lane.gathered_bytes]
  simp

end Sys2Proof.Machine
end

