-- ==== Sys2Proof/Tests/Slice0.lean ====
section
/-! SUPPORT. Tests of the model on small states, one step each, and for every statement a state and operands that meet its
hypotheses. Numbers in the tests are those of the spec's examples where one fits. -/

namespace Sys2Proof.Tests

set_option Elab.async false

open Sys2Proof.Machine

/-! ## Small states -/

/-- The next state. -/
def after (r : Result) : State :=
  match r with
  | .next t => t
  | .fault _ | .refused _ => State.reset

/-- The command was given a next state. -/
def completes (r : Result) : Bool :=
  match r with
  | .next _ => true
  | .fault _ | .refused _ => false

/-- The body of the frame the transmitter has begun. -/
def answer (r : Result) : List Byte :=
  match (after r).link.sending with
  | some f => f.frame.body
  | none => []

/-- A record of one block that stands on the intake list. -/
def sample : Record where
  lane := 3
  channel := 9
  kind := 0x20
  seq := 100
  sourceTime := 0x01020304
  payloadLength := 6
  missing := some 2
  payload := [1, 2, 3, 4, 5, 6]
  arrival := some 7
  generation := none
  label := none
  queue := none
  admission := none
  deliveryCount := 0
  spilled := false

/-- The record in queue q under an admission number. -/
def sampleIn (q : QueueId) (number : Word) : Record :=
  { sample with generation := some 1, label := some 5, queue := some q, admission := some number }

/-- A lane in ACTIVE with e = 500, L = 507 and W = 8, its cap (section 3.3's example). -/
def active : Lane :=
  { Lane.powerOn with
    state := .active
    e := 500
    limit := 507
    lastSent := 507
    config := { LaneConfig.default with creditCap := 8 }
    timers := { LaneTimers.stopped with silence := some 501000, refresh := some 51000 } }

/-- The header of a record of 6 bytes. -/
def header (seq : Half) : RecordHeader := ⟨9, 0x20, seq, 0x01020304, 6⟩

/-- The bytes of record 499 up to its header decision. -/
def covered499 : List Byte := headerCovered 19 0 (header 499) (crc8 (headerBytes (header 499)))

/-- Characters in time until the moment given. -/
def chars (gapEnd : Nat) (bytes : List Byte) : List LineChar := bytes.map fun b => ⟨b, true, gapEnd⟩

/-- The lane in the middle of record 499: its header decision and the first two payload bytes are behind it. -/
def assembling : Lane :=
  { active with
    assembly := some { sample with lane := 0, seq := 499, missing := none, payload := [4, 5], arrival := none }
    receiver := .record covered499 6 true
    reception := ⟨chars 1990 (0x9E :: covered499 ++ [4, 5]), []⟩ }

/-- A lane in PROBING that awaits the ECHO to index 2. -/
def probing : Lane :=
  { Lane.powerOn with
    state := .probing
    awaited := 2
    timers := { LaneTimers.stopped with probeInterval := some 11000, probeWindow := some 1001000 } }

/-- A lane in CLOSING with W = 2. -/
def closing : Lane :=
  { Lane.powerOn with
    state := .closing
    e := 10
    limit := 11
    lastSent := 11
    timers := { LaneTimers.stopped with silence := some 501000, close := some 201000 } }

/-- A notice's contents that named Q1 with one record. -/
def reported : Snapshot where
  counts := #v[0, 1, 0, 0, 0, 0, 0, 0]
  due := #v[false, true, false, false, false, false, false, false]
  outstanding := 1
  freeDescriptors := 1019
  freeBlocks := 2043
  lanes := #v[.active, .probing, .closing, .failed]
  errorFlag := false
  alerts := [⟨.laneUp, 1, 1⟩]
  taken := 950

/-- A part at work: one lane in each of four states, a record in each of ASSEMBLING, INTAKE (listed and walked), QUEUED and
OUTSTANDING, a notice unacknowledged, and a STATUS that waits to be executed. -/
def working : State where
  pending := []
  running := true
  clock := 1000
  lines := .silent
  lanes := #v[assembling, probing, closing, { Lane.powerOn with state := .failed }]
  store := { Store.powerOn with freeDescriptors := 1019, freeBlocks := 2043 }
  classifier := { Classifier.powerOn with intake := [sample], walk := some ⟨sample, 998⟩, generation := 1 }
  queues := ((Vector.replicate 8 (Queue.powerOn false)).set 0 (Queue.powerOn true)).set 1
    { Queue.powerOn true with list := [sampleIn 1 2], charge := 2, admissionCounter := 2 }
  slots := (Vector.replicate 64 Slot.powerOn).set 3 ⟨2, some ⟨{ sampleIn 1 1 with deliveryCount := 1 }, 1, some 5000⟩⟩
  notice := { Notice.powerOn with
    alerts := [⟨.laneUp, 1, 1⟩]
    levels := (Vector.replicate 8 Level.zero).set 1 ⟨0, some 900, true⟩
    state := .awaitingAck
    tag := 7
    snapshot := some reported
    renotice := some 900000 }
  link := { Link.powerOn 115200 with
    state := .opened
    expected := some 8
    requests := [⟨7, 0x58, []⟩]
    cache := [⟨6, ⟨6, 0x84, [0]⟩⟩] }

/-- The request given stands at the head of the request queue. -/
def asked (kind : Byte) (body : List Byte) (s : State := working) : State :=
  { s with link := { s.link with requests := [⟨7, kind, body⟩] } }

/-- One lane of the working part put in its place. -/
def laneAt (n : LaneId) (l : Lane) : State := working.setLane n l

/-- STATUS, number 8, without its last CRC byte. -/
def statusChars : List Byte := ((⟨8, 0x58, []⟩ : Frame).bytes).take 6

/-- Its last CRC byte. -/
def statusLast : Byte := (crc16 (coveredBytes 8 0x58 [])).extractLsb' 0 8

/-- The part has taken the characters given on the control link, and one more is received now. -/
def hears (before : List LineChar) (byte : Byte) (stop : Bool) : State :=
  { working with
    lines := { working.lines with control := [⟨0, byte, stop⟩, ⟨70, 0xB7, true⟩] }
    link := { working.link with requests := [], reception := ⟨before, []⟩ } }

/-- What the character gives. -/
def given (s : State) : Option Instr :=
  match s.receive with
  | some (_, c) => c
  | none => none

/-- The part has taken the characters given on lane 2, and one more is received now. -/
def laneHears (before : List LineChar) (byte : Byte) (stop : Bool) : State :=
  { laneAt 2 { closing with reception := ⟨before, []⟩ } with
    lines := { working.lines with lanes := working.lines.lanes.set 2 [⟨0, byte, stop⟩] }
    link := { working.link with requests := [] } }

/-- Lane 0 assembles record 499, has received the bytes given behind the header decision, and hears one more. -/
def payloadHears (received : List Byte) (byte : Byte) (stop : Bool) : State :=
  { laneAt 0 { assembling with reception := ⟨chars 1990 (0x9E :: covered499 ++ received), []⟩ }.storePayload with
    lines := { working.lines with lanes := working.lines.lanes.set 0 [⟨0, byte, stop⟩] }
    link := { working.link with requests := [] } }

/-- The bytes of a KEEPALIVE but its last CRC byte. -/
def keepaliveChars : List Byte := (frameBytes laneSof 0 0x13 [0, 10]).take 8

/-- Its last CRC byte. -/
def keepaliveLast : Byte := (crc16 (coveredBytes 0 0x13 [0, 10])).extractLsb' 0 8

/-- The example of section 8.5: 10 in execution, 11 to 14 waiting, 6 to 9 in the cache. -/
def behindCommit : State :=
  { working with link := { working.link with
      expected := some 15
      executing := some ⟨10, 0x23, []⟩
      requests := [⟨11, 0x58, []⟩, ⟨12, 0x40, [1, 1, 0]⟩, ⟨13, 0x31, [1]⟩, ⟨14, 0x58, []⟩]
      cache := [⟨6, ⟨6, 0x84, [0]⟩⟩, ⟨7, ⟨7, 0x84, [0]⟩⟩, ⟨8, ⟨8, 0x84, [0]⟩⟩, ⟨9, ⟨9, 0x84, [0]⟩⟩] } }

/-- A HALTED link, the cached answer to 6 waiting behind another response. -/
def haltedResending : State :=
  { working with link := { working.link with
      state := .halted
      sending := some (.response ⟨5, 0x84, [0]⟩)
      outbound := [.response ⟨6, 0x84, [0]⟩] } }

/-- Eight response frames wait. -/
def fullOutbound : State :=
  { working with link := { working.link with
      sending := some (.response ⟨5, 0x84, [0]⟩), outbound := List.replicate 8 (.response ⟨6, 0x84, [0]⟩) } }

/-- A SYNC waits to be taken. -/
def committingSync : State := { working with link := { working.link with syncWaiting := [40] } }

/-- The execution of whatever request is asked begins. -/
theorem starts_asked (kind : Byte) (body : List Byte) : Starts (asked kind body) ⟨7, kind, body⟩ [] :=
  ⟨rfl, rfl, (by decide : 0 < 8), rfl, rfl, rfl⟩

/-- The same in a state whose transmitter and request queue are as the working part's. -/
theorem starts_askedIn (kind : Byte) (body : List Byte) (s : State) (hr : s.running = true) (hl : s.link = working.link) :
    Starts (asked kind body s) ⟨7, kind, body⟩ [] := by
  obtain ⟨_, _, _, _, _, _, _, _, _, _, link⟩ := s
  cases hl
  exact ⟨hr, rfl, (by decide : 0 < 8), rfl, rfl, rfl⟩

/-! ## WellFormed -/

theorem test_wellFormed_refuses_long_control_body :
    Instr.WellFormed (.controlFrameReceived 0 0x58 (List.replicate 1025 0)) = false := by decide +kernel
theorem test_wellFormed_refuses_long_sync_body : Instr.WellFormed (.sync 0 (List.replicate 1025 0)) = false := by
  decide +kernel
theorem test_wellFormed_refuses_short_pattern : Instr.WellFormed (.echo 0 0 [1, 2, 3, 4, 5, 6, 7] 0) = false := by decide
theorem test_wellFormed_refuses_short_record : Instr.WellFormed (.recordHeader 0 12 0 ⟨0, 0, 0, 0, 0⟩ 0) = false := by decide
theorem test_wellFormed_refuses_long_record : Instr.WellFormed (.recordHeader 0 261 0 ⟨0, 0, 0, 0, 0⟩ 0) = false := by decide
theorem test_wellFormed_refuses_long_record_end :
    Instr.WellFormed (.recordEnd 0 (List.replicate 263 0) 0) = false := by decide +kernel
theorem test_wellFormed_refuses_long_lane_body :
    Instr.WellFormed (.laneProtocolError 0 0x55 (List.replicate 259 0)) = false := by decide +kernel
theorem test_wellFormed_admits_largest :
    Instr.WellFormed (.controlFrameReceived 0 0x58 (List.replicate 1024 0)) = true ∧
    Instr.WellFormed (.recordHeader 0 13 0 ⟨0, 0, 0, 0, 0⟩ 0) = true ∧
    Instr.WellFormed (.recordHeader 0 260 0 ⟨0, 0, 0, 0, 0⟩ 0) = true ∧
    Instr.WellFormed (.laneProtocolError 0 0x55 (List.replicate 258 0)) = true := by decide +kernel

/-! ## The words of the table -/

theorem test_no_word_spells_a_command : decodeTableWord 8 0 = none ∧ State.reset.withFetchWord 8 0 = State.reset := ⟨rfl, rfl⟩

/-! ## Steps and resets -/

theorem witness_StepTakesFrontCommand :
    ({ working with pending := [.gapError] } : State).pending = .gapError :: [] ∧ working.pending = [] := ⟨rfl, rfl⟩

theorem test_step_takes_front_command :
    step { working with pending := [.gapError, .ident] } = exec .gapError { working with pending := [.ident] } := rfl

theorem test_idle_step_runs_the_request : step working = exec .status working := rfl

theorem test_idle_step_ticks : (after (step State.reset)).clock = 1 := by decide +kernel

theorem witness_ResetnHoldsAndStartsThePart :
    (after (exec .resetnAssert working)).running = false ∧ (after (exec .resetnAssert working)).pending = [] ∧
    Instr.ident ≠ .resetnAssert ∧ ∀ b1 b0, Instr.ident ≠ .resetnRelease b1 b0 :=
  ⟨rfl, rfl, by decide, nofun⟩

theorem test_straps : [(false, false), (false, true), (true, false), (true, true)].map (fun b =>
    (after (exec (.resetnRelease b.1 b.2) working)).link.bitRate) = [115200, 460800, 921600, 3000000] := by decide +kernel

theorem witness_EveryCommandCompletes : ∀ b1 b0, Instr.gapError ≠ .resetnRelease b1 b0 := nofun

/-- The RESET(PART) response is being sent. -/
def resetting : State := after (exec .resetPart (asked 0x5A [0]))

theorem witness_PartResetInTwoStages :
    Starts (asked 0x5A [0]) ⟨7, 0x5A, [0]⟩ [] ∧ Starts (asked 0x5A [2]) ⟨7, 0x5A, [2]⟩ [] ∧
    resetting.running = true ∧ resetting.link.sending = some (.resetResponse ⟨7, 0xDA, [0]⟩) ∧
    resetting.link.resetPending = true ∧ (asked 0x58 [] resetting).link.resetPending = true ∧
    (asked 0x58 [] resetting).link.requests = [⟨7, 0x58, []⟩] ∧ requestCommand ⟨7, 0x58, []⟩ = some .status :=
  ⟨starts_asked _ _, starts_asked _ _, rfl, by decide +kernel, by decide +kernel, by decide +kernel, rfl, by decide +kernel⟩

theorem test_nothing_executes_after_reset :
    exec .status (asked 0x58 [] resetting) = .next (asked 0x58 [] resetting) := rfl

theorem test_reset_scopes :
    answer (exec .resetPart (asked 0x5A [2])) = [0x20] ∧ answer (exec .resetStore (asked 0x5A [2])) = [0x20] ∧
    (after (exec .partResetEffect resetting)).clock = 0 ∧ (after (exec .controlFrameSent resetting)).clock = 0 := by
  decide +kernel

theorem test_reset_store :
    let t := after (exec .resetStore (asked 0x5A [1]))
    t.store.freeDescriptors = 1024 ∧ t.store.freeBlocks = 2048 ∧ heldRecords t = [] ∧ (t.lane 0).reservation = 8 ∧
    (t.lane 0).pendingMissing = 1 ∧ (t.queue 1).charge = 0 ∧ (t.slot 3).issue = 3 ∧ t.classifier.counters.abandoned = 1 := by
  decide +kernel

theorem working_keeps_CreditLaw : CreditLaw working := by unfold CreditLaw; decide +kernel

theorem witness_ResetStoreEmptiesTheStore :
    Starts (asked 0x5A [1]) ⟨7, 0x5A, [1]⟩ [] ∧ CreditLaw (asked 0x5A [1]) ∧
    ∀ n, ¬(((asked 0x5A [1]).lane n).state = .closing ∧ ((asked 0x5A [1]).lane n).reservation = 0) :=
  ⟨starts_asked _ _, by unfold CreditLaw; decide +kernel, by decide +kernel⟩

/-- Lane 2 is CLOSING with its window used up but for the record it assembles. -/
def closingLast : State :=
  (laneAt 2 { closing with limit := 9, assembly := some { sample with lane := 2, missing := none, payload := [], arrival := none } })

theorem test_reset_store_ends_a_close :
    let t := after (exec .resetStore (asked 0x5A [1] closingLast))
    (t.lane 2).state = .down ∧ t.notice.alerts = [⟨.laneUp, 1, 1⟩, ⟨.laneClosed, 1, 4⟩] := by decide +kernel

/-! ## The control link -/

theorem witness_FramedBytesReachTheReceiver :
    (0xB7 : Byte) ∉ ([0x00, 0xB6] : List Byte) ∧ (⟨7, 0x41, List.replicate 1024 0xB7⟩ : Frame).body.length ≤ 1024 := by
  decide +kernel

theorem witness_FramedBytesReachTheReceiver_control :
    (hears [] 0xB7 true).running = true ∧
    NextCharacter 6000 (hears [] 0xB7 true).link.reception (hears [] 0xB7 true).lines.control ⟨0xB7, true, 6000⟩ []
      [⟨70, 0xB7, true⟩] ∧
    (∀ x ∈ (hears (chars 1100 statusChars) 0 true).link.reception.frame, x.stop = true) ∧
    coveredBytes 8 0x58 [] = 0 :: 2 :: 8 :: 0x58 :: [] :=
  ⟨rfl, .inr ⟨rfl, rfl, _, rfl, rfl, rfl⟩, by decide +kernel, by decide +kernel⟩

theorem witness_FramedBytesReachTheReceiver_lane :
    let s := laneHears (chars 1100 keepaliveChars) 0 true
    s.running = true ∧ NoCharacter s.link.reception s.lines.control ∧
    (∀ m < (2 : LaneId), NoCharacter (s.lane m).reception s.lines.lanes[m]) ∧
    NextCharacter (s.clock + 1000) (s.lane 2).reception s.lines.lanes[(2 : LaneId)] ⟨0, true, 2000⟩ [] [] ∧
    ∀ x ∈ (s.lane 2).reception.frame, x.stop = true := by
  refine ⟨rfl, ⟨rfl, nofun⟩, ?_, .inr ⟨rfl, rfl, _, rfl, rfl, rfl⟩, by decide +kernel⟩
  intro m hm
  match m, hm with
  | 0, _ => exact ⟨rfl, nofun⟩
  | 1, _ => exact ⟨rfl, nofun⟩

theorem witness_FramedBytesReachTheReceiver_payload :
    let s := payloadHears [1, 2] 3 true
    s.running = true ∧ NoCharacter s.link.reception s.lines.control ∧
    NextCharacter (s.clock + 1000) (s.lane 0).reception s.lines.lanes[(0 : LaneId)] ⟨3, true, 2000⟩ [] [] ∧
    (∀ x ∈ (s.lane 0).reception.frame, x.stop = true) ∧ (s.lane 0).assembly.isSome = true :=
  ⟨rfl, ⟨rfl, nofun⟩, .inr ⟨rfl, rfl, _, rfl, rfl, rfl⟩, by decide +kernel, rfl⟩

theorem test_frame_behind_noise :
    controlCommands ([0x00] ++ (⟨7, 0x41, [1, 0xB7, 2]⟩ : Frame).bytes ++ [0xB7]) = [.controlFrameReceived 7 0x41 [1, 0xB7, 2]] := by
  decide +kernel

theorem test_bad_length_and_crc :
    controlCommands [0xB7, 0x00, 0x01, 0x00] = [.linkError .length] ∧
    controlCommands [0xB7, 0x00, 0x02, 0x07, 0x58, 0x00, 0x00] = [.linkError .crc] := by decide +kernel

theorem test_crcs :
    crc16 [0x31, 0x32, 0x33, 0x34, 0x35, 0x36, 0x37, 0x38, 0x39] = 0x29B1 ∧
    crc8 [0x31, 0x32, 0x33, 0x34, 0x35, 0x36, 0x37, 0x38, 0x39] = 0xF4 := by decide +kernel

/-- A frame on the control link has been broken off behind its second character, which is another start-of-frame value. -/
def brokenOff : State := { working with link := { working.link with reception := ⟨[⟨0xB7, true, 900⟩, ⟨0xB7, true, 999⟩], []⟩ } }

theorem witness_LinkErrorIsTaken : working.running = true ∧ working.link.mode = .strict ∧ working.link.state = .opened ∧
    brokenOff.running = true ∧ brokenOff.link.reception.Late brokenOff.clock ∧ ¬working.link.reception.Late working.clock :=
  ⟨rfl, rfl, rfl, rfl, ⟨rfl, _, rfl, by decide⟩, fun h => by obtain ⟨_, _, h, _⟩ := h; cases h⟩

theorem test_link_error :
    (after (exec (.linkError .crc) working)).link.state = .halted ∧ (after (exec .gapError brokenOff)).link.counters.gapErrors = 1 ∧
    (after (exec .gapError brokenOff)).notice.alerts = [⟨.laneUp, 1, 1⟩, ⟨.linkError, 1, 0⟩] ∧
    (after (exec .gapError brokenOff)).link.reception = ⟨[], [⟨0xB7, true, 999⟩]⟩ ∧ exec .gapError working = .next working :=
  ⟨by decide +kernel, by decide +kernel, by decide +kernel, by decide +kernel, rfl⟩

theorem test_idle_step_finds_the_gap : step { brokenOff with link := { brokenOff.link with requests := [] } } =
    exec .gapError { brokenOff with link := { brokenOff.link with requests := [] } } := rfl

theorem test_control_characters :
    given (hears (chars 1100 statusChars) statusLast true) = some (.controlFrameReceived 8 0x58 []) ∧
    given (hears (chars 1100 statusChars) 0 true) = some (.linkError .crc) ∧
    given (hears (chars 1100 statusChars) 0 false) = some (.linkError .framing) ∧
    given (hears (chars 1100 [0xB7, 0]) 1 true) = some (.linkError .length) ∧
    given (hears (chars 1100 [0xB7, 0]) 2 true) = none ∧ given (hears [] 0x58 true) = none := by decide +kernel

theorem test_gap_timeout_in_force_is_the_characters : (after (step (hears [] 0xB7 true))).link.reception.frame =
    [⟨0xB7, true, 6000⟩] := by decide +kernel

theorem test_step_runs_the_frame :
    (after (step (hears (chars 1100 statusChars) statusLast true))).link.requests = [⟨8, 0x58, []⟩] := by
  decide +kernel

theorem test_lane_characters :
    given (laneHears (chars 1100 keepaliveChars) keepaliveLast true) = some (.keepalive 2 10) ∧
    given (laneHears (chars 1100 keepaliveChars) 0 true) = some (.laneBadFrame 2) ∧
    given (laneHears (chars 1100 (0x9E :: covered499.take 14)) (crc8 (headerBytes (header 499))) true) =
      some (.recordHeader 2 19 0 (header 499) (crc8 (headerBytes (header 499)))) ∧
    given (laneHears (chars 1100 [0x9E, 1]) 5 true) = some (.laneBadFrame 2) ∧
    given (laneHears (chars 1100 [0x9E, 1]) 4 true) = none ∧ given (laneHears (chars 1100 [0x9E]) 1 false) = some (.laneBadFrame 2) := by
  decide +kernel

theorem test_record_end_by_characters :
    given (payloadHears [1, 2, 3, 4, 5, 6, 7] 8 true) = some (.recordEnd 0 [1, 2, 3, 4, 5, 6] 0x0708) := by decide +kernel

theorem test_payload_is_stored_as_it_arrives :
    ([([], 1), ([1, 2], 3), ([1, 2, 3, 4, 5], 6), ([1, 2, 3, 4, 5, 6], 7)] : List (List Byte × Byte)).map (fun x =>
      ((after (step (payloadHears x.1 x.2 true))).lane 0).assembly.map (·.payload)) =
      [some [1], some [1, 2, 3], some [1, 2, 3, 4, 5, 6], some [1, 2, 3, 4, 5, 6]] ∧
    ((after (step (payloadHears [1, 2] 3 false))).lane 0).assembly = none := by decide +kernel

theorem test_lines_elapse : elapseLine [⟨0, 1, true⟩, ⟨5, 2, true⟩] = [⟨4, 2, true⟩] := by decide

theorem witness_FrameIsClassifiedBySequence_halted_and_waiting :
    haltedResending.running = true ∧ haltedResending.link.resetPending = false ∧ haltedResending.link.state = .halted ∧
    haltedResending.link.expected = some 8 ∧ (0x41 : Byte) ≠ 0x58 ∧ (0x41 : Byte) ≠ 0x02 ∧ (0x41 : Byte) ≠ 0x04 ∧
    haltedResending.link.cache.find? (fun e => decide (e.seq = 6)) = some ⟨6, ⟨6, 0x84, [0]⟩⟩ ∧
    (⟨6, 0x84, [0]⟩ : Frame) ∈ haltedResending.link.outbound.map OutFrame.frame := by decide +kernel

theorem test_halted_and_waiting :
    (after (exec (.controlFrameReceived 8 0x41 [1, 0, 1]) haltedResending)).link.outbound =
      [.response ⟨6, 0x84, [0]⟩, .response ⟨8, 0xC1, [0x13]⟩] ∧
    (after (exec (.controlFrameReceived 8 0x58 []) haltedResending)).link.requests.length = 2 ∧
    (after (exec (.controlFrameReceived 6 0x04 []) haltedResending)).link.outbound = [.response ⟨6, 0x84, [0]⟩] ∧
    (after (exec (.controlFrameReceived 6 0x04 []) haltedResending)).link.counters.resent = 0 := by decide +kernel

theorem witness_FrameIsClassifiedBySequence :
    behindCommit.running = true ∧ behindCommit.link.resetPending = false ∧ (0x41 : Byte) ≠ 0x01 ∧
    behindCommit.link.state ≠ .unsynced ∧ behindCommit.link.expected = some 15 := by decide +kernel

theorem test_sequence_numbers :
    answer (exec (.controlFrameReceived 15 0x41 [1, 0, 1]) behindCommit) = [0x10] ∧
    answer (exec (.controlFrameReceived 12 0x40 [1, 1, 0]) behindCommit) = [] ∧
    (after (exec (.controlFrameReceived 8 0x04 []) behindCommit)).link.sending = some (.response ⟨8, 0x84, [0]⟩) ∧
    answer (exec (.controlFrameReceived 5 0x04 []) behindCommit) = [0x11, 15] ∧
    (after (exec (.controlFrameReceived 8 0x59 [3, 0, 0]) working)).link.requests.length = 2 := by decide +kernel

theorem witness_UnsyncedFrameIsAnswered :
    State.reset.running = true ∧ State.reset.link.resetPending = false ∧ (0x58 : Byte) ≠ 0x01 ∧ (0x02 : Byte) ≠ 0x01 ∧
    State.reset.link.state = .unsynced := by decide +kernel

theorem test_unsynced :
    answer (exec (.controlFrameReceived 0 0x58 []) State.reset) = [0x12] ∧
    (answer (exec (.controlFrameReceived 0 0x02 []) State.reset)).take 8 = [0, 0x41, 0x57, 0x43, 0x57, 0x2D, 0x34, 0x31] ∧
    (after (exec (.controlFrameReceived 0 0x60 []) State.reset)).link.sending = some (.response ⟨0, 0xFF, [0x12]⟩) := by
  decide +kernel

theorem witness_SyncIsTaken :
    working.running = true ∧ working.link.resetPending = false ∧ working.link.executing = none ∧
    behindCommit.link.executing ≠ none := by decide +kernel

theorem witness_SyncIsTaken_without_room :
    fullOutbound.running = true ∧ fullOutbound.link.resetPending = false ∧ fullOutbound.link.executing = none ∧
    8 ≤ fullOutbound.link.outbound.length := by decide +kernel

theorem test_sync_without_room :
    (after (exec (.sync 20 []) fullOutbound)).link.counters.answersDropped = 1 ∧
    (after (exec (.sync 20 []) fullOutbound)).link.expected = some 8 := by decide +kernel

theorem test_sync :
    answer (exec (.sync 255 []) State.reset) = [0, 1, 0] ∧ (after (exec (.sync 255 []) State.reset)).link.expected = some 0 ∧
    (after (exec (.sync 255 []) State.reset)).notice.state = .waitingLink ∧
    (after (exec (.sync 20 []) behindCommit)).link.syncWaiting = [20] ∧ answer (exec (.sync 20 [1]) working) = [0x15] := by
  decide +kernel

theorem witness_MisfitRequestIsRefused :
    Starts (asked 0x58 [1]) ⟨7, 0x58, [1]⟩ [] ∧ requestCommand ⟨7, 0x58, [1]⟩ = some .status ∧
    requestLength 0x58 [1] ≠ some 1 ∧
    Starts (asked 0x60 []) ⟨7, 0x60, []⟩ [] ∧ requestCommand ⟨7, 0x60, []⟩ = some .unknownRequest ∧
    requestLength 0x60 [] ≠ some 0 :=
  ⟨starts_asked _ _, by decide +kernel, by decide +kernel, starts_asked _ _, by decide +kernel, by decide +kernel⟩

theorem witness_MisfitRequestIsRefused_waits :
    requestCommand ⟨7, 0x58, []⟩ = some .status ∧ behindCommit.link.executing ≠ none ∧ 8 ≤ fullOutbound.link.outbound.length ∧
    committingSync.link.syncWaiting ≠ [] ∧ resetting.link.resetPending = true ∧ State.reset.link.requests = [] := by decide +kernel

theorem test_request_waits :
    exec .status behindCommit = .next behindCommit ∧ exec .status fullOutbound = .next fullOutbound ∧
    exec .status committingSync = .next committingSync ∧ exec .status State.reset = .next State.reset := ⟨rfl, rfl, rfl, rfl⟩

theorem test_responseKind : [0x01, 0x58, 0x60, 0xE0, 0x81].map responseKind = [0x81, 0xD8, 0xFF, 0xFF, 0x81] := by decide

theorem test_misfit :
    answer (exec .status (asked 0x58 [1])) = [0x15] ∧ answer (exec .unknownRequest (asked 0x60 [])) = [0x14] ∧
    answer (exec .release (asked 0x41 [])) = [0x15] := by decide +kernel

/-- The transmitter sends a response, another one waits behind it, and a notice is requested. -/
def transmitting : State :=
  { working with
    notice := { working.notice with state := .waitingLink, snapshot := none, renotice := none }
    link := { working.link with sending := some (.response ⟨1, 0x84, [0]⟩), outbound := [.response ⟨2, 0x84, [0]⟩] } }

/-- The transmitter sends the last response. -/
def lastSending : State := { transmitting with link := { transmitting.link with outbound := [] } }

/-- The transmitter is idle and a notice is requested. -/
def noticeAsked : State := { lastSending with link := { lastSending.link with sending := none } }

theorem witness_TransmitterChoosesAndNoticeBegins :
    transmitting.running = true ∧ transmitting.link.sending = some (.response ⟨1, 0x84, [0]⟩) ∧
    (OutFrame.response ⟨1, 0x84, [0]⟩).isReset = false ∧
    (noticeAsked.running = true ∧ noticeAsked.link.sending = none ∧ noticeAsked.link.outbound = [] ∧
      noticeAsked.notice.state = .waitingLink ∧ noticeAsked.link.resetPending = false) ∧
    (working.link.sending = none ∧
      ¬(working.link.outbound = [] ∧ working.notice.state = .waitingLink ∧ working.link.resetPending = false)) := by
  decide +kernel

theorem test_transmitter :
    (after (exec .controlFrameSent transmitting)).link.sending = some (.response ⟨2, 0x84, [0]⟩) ∧
    (after (exec .controlFrameSent lastSending)).notice.state = .awaitingAck := by decide +kernel

theorem test_notice_frame : answer (exec .noticeBegin noticeAsked) =
    [0, 0, 0, 1, 0, 0, 0, 0, 0, 0, 0, 0, 0, 0, 0, 0, 0x02, 1, 0x03, 0xFB, 0x07, 0xFB, 2, 1, 3, 4, 0, 1, 0x02, 1, 1] := by
  decide +kernel

theorem witness_LinkRequestsAreExecuted :
    Starts (asked 0x02 []) ⟨7, 0x02, []⟩ [] ∧ Starts (asked 0x03 [1, 255]) ⟨7, 0x03, [1, 255]⟩ [] ∧
    Starts (asked 0x04 []) ⟨7, 0x04, []⟩ [] := ⟨starts_asked _ _, starts_asked _ _, starts_asked _ _⟩

theorem test_link_requests :
    answer (exec .ident (asked 0x02 [])) =
      [0, 0x41, 0x57, 0x43, 0x57, 0x2D, 0x34, 0x31, 0x38, 0, 0, 0x42, 4, 8, 32, 4, 0, 8, 0, 64, 64, 4, 4, 0, 1, 0xC2, 0] ∧
    [[0, 1], [1, 255], [2, 5], [0, 0]].map (fun b => answer (exec .linkConfig (asked 0x03 b))) = [[0], [0], [0x20], [0x20]] ∧
    (after (exec .clearError (asked 0x04 [] (after (exec (.linkError .crc) working))))).link.state = .opened := by decide +kernel

/-! ## Lane requests -/

theorem witness_LaneConfigSetsNamedLanes :
    Starts (asked 0x10 [8, 64, 16, 0xEA, 0x60, 0x27, 0x10, 0x27, 0x10, 255, 1])
      ⟨7, 0x10, [8, 64, 16, 0xEA, 0x60, 0x27, 0x10, 0x27, 0x10, 255, 1]⟩ [] ∧
    (LaneConfig.mk 64 16 (nat16 0xEA 0x60) (nat16 0x27 0x10) (nat16 0x27 0x10) 255 true).inRange = true ∧
    (∀ n, ¬((8#8).getLsbD n.val = true ∧ ((working.lane n).state = .probing ∨ (working.lane n).state = .active ∨
      (working.lane n).state = .closing))) ∧
    (15#8).getLsbD 0 = true ∧ (working.lane 0).state = .active :=
  ⟨starts_asked _ _, by decide +kernel, by decide +kernel, by decide, by decide +kernel⟩

theorem test_laneConfig : [
      [8, 64, 16, 0xEA, 0x60, 0x27, 0x10, 0x27, 0x10, 255, 1],
      [8, 65, 16, 0xEA, 0x60, 0x27, 0x10, 0x27, 0x10, 255, 1],
      [8, 64, 16, 0xEA, 0x61, 0x27, 0x10, 0x27, 0x10, 255, 1],
      [0, 1, 1, 0, 10, 0, 100, 0, 10, 1, 0],
      [12, 1, 1, 0, 10, 0, 100, 0, 10, 1, 0],
      [8, 1, 2, 0, 10, 0, 100, 0, 10, 1, 0],
      [8, 1, 1, 0, 10, 0, 100, 0, 10, 1, 0]].map (fun b => answer (exec .laneConfig (asked 0x10 b))) =
    [[0], [0x20], [0x20], [0x20], [0x21, 2], [0x20], [0]] := by decide +kernel

theorem witness_LaneOpenEntersProbing :
    Starts (asked 0x11 [8]) ⟨7, 0x11, [8]⟩ [] ∧ Starts (asked 0x11 [16]) ⟨7, 0x11, [16]⟩ [] ∧ (working.lane 3).state = .failed ∧
    (working.lane 0).state = .active := ⟨starts_asked _ _, starts_asked _ _, by decide +kernel, by decide +kernel⟩

theorem test_laneOpen :
    [[8], [0], [16], [15]].map (fun b => answer (exec .laneOpen (asked 0x11 b))) = [[0], [0x20], [0x20], [0x21, 0]] ∧
    ((after (exec .laneOpen (asked 0x11 [8]))).lane 3).sending = some (.probe 0) := by decide +kernel

theorem witness_LaneCloseAndAbortActPerLane :
    Starts (asked 0x12 [15]) ⟨7, 0x12, [15]⟩ [] ∧ Starts (asked 0x13 [16]) ⟨7, 0x13, [16]⟩ [] := ⟨starts_asked _ _, starts_asked _ _⟩

theorem test_laneClose :
    answer (exec .laneClose (asked 0x12 [15])) = [0, 0, 0, 1, 1] ∧
    ((after (exec .laneClose (asked 0x12 [1]))).lane 0).sending = some (.close 507) := by decide +kernel

theorem test_laneAbort :
    answer (exec .laneAbort (asked 0x13 [15])) = [0, 0, 0, 0, 0] ∧
    (after (exec .laneAbort (asked 0x13 [1]))).store.freeDescriptors = 1020 := by decide +kernel

/-! ## Lane sessions -/

/-- Lane 1 awaits the ECHO to the last index. -/
def lastProbe : State := laneAt 1 { probing with awaited := 3 }

theorem witness_ProbeExchangeAdvancesOrRestarts :
    Hears working 1 ∧ (working.lane 1).state = .probing ∧ (probePattern 2).length = 8 ∧ Hears lastProbe 1 ∧
    (lastProbe.lane 1).state = .probing ∧
    (({ working with clock := 11000 } : State).lane 1).timers.probeInterval = some 11000 ∧
    (({ working with clock := 1001000 } : State).lane 1).timers.probeWindow = some 1001000 := by decide +kernel

theorem test_echo :
    ((after (exec (.echo 1 2 (probePattern 2) 600) working)).lane 1).awaited = 3 ∧
    ((after (exec (.echo 1 2 (probePattern 1) 600) working)).lane 1).awaited = 0 ∧
    ((after (exec (.echo 1 3 (probePattern 3) 600) lastProbe)).lane 1).limit = 599 := by decide +kernel

theorem test_probe_timers :
    ((after (exec (.probeIntervalExpiry 1) { working with clock := 11000 })).lane 1).counters.probeRetries = 1 ∧
    ((after (exec (.probeWindowExpiry 1) { working with clock := 1001000 })).lane 1).state = .failed ∧
    exec (.probeIntervalExpiry 1) working = .next working := ⟨by decide +kernel, by decide +kernel, rfl⟩

theorem witness_LaneFrameTakenByKindOrProtocolError :
    Hears working 2 ∧ ¬((0x55 : Byte) = 0x11 ∧ ([] : List Byte).length = 11 ∧ (working.lane 2).state = .probing) ∧
    ¬(((0x55 : Byte) = 0x12 ∨ ((0x55 : Byte) = 0x13 ∧ ([] : List Byte).length = 2) ∨ ((0x55 : Byte) = 0x03 ∧ ([] : List Byte) = [])) ∧
      (working.lane 2).inSession = true) ∧
    ¬((0x55 : Byte) = 0x04 ∧ ([] : List Byte) = [] ∧ (working.lane 2).state = .closing) := by decide +kernel

theorem test_protocolError :
    ((after (exec (.laneProtocolError 2 0x55 []) working)).lane 2).counters.protocolErrors = 1 ∧
    ((after (exec (.closeAck 0) State.reset)).lane 0).counters.protocolErrors = 0 := by decide +kernel

/-- The same moment 1 ms after the last character of record 499. -/
def late : State := { working with clock := 1991 }

theorem witness_BadLaneFrameIsCounted : working.running = true ∧ (working.lane 0).assembly.isSome = true ∧
    (late.lane 0).reception.Late late.clock ∧ ¬(working.lane 0).reception.Late working.clock := by
  refine ⟨rfl, rfl, ?_, ?_⟩
  · rw [← Reception.gapPassed_iff]; decide +kernel
  · rw [← Reception.gapPassed_iff]; decide +kernel

theorem test_bad_frames :
    ((after (exec (.laneBadFrame 0) working)).lane 0).counters.crcErrors = 1 ∧
    ((after (exec (.laneBadFrame 2) working)).lane 2).counters.framesBad = 1 ∧
    ((after (exec (.laneCharGapExpiry 0) { laneAt 0 { assembling with consecutiveBad := 15 } with clock := 1991 })).lane 0).state =
      .down ∧
    ((after (exec (.laneCharGapExpiry 0) late)).lane 0).reception = ⟨[], chars 1990 (covered499 ++ [4, 5])⟩ := by
  decide +kernel

theorem witness_SessionsEndByLossOrClose :
    ((({ working with clock := 501000 } : State).lane 0).inSession = true ∧
      (({ working with clock := 501000 } : State).lane 0).timers.silence = some 501000) ∧
    ((working.lane 2).state = .closing ∧ (working.lane 2).receiver = .hunting ∧
      (({ working with clock := 201000 } : State).lane 2).timers.close = some 201000) ∧
    Hears working 2 ∧ (working.lane 2).inSession = true := by decide +kernel

theorem test_session_ends :
    ((after (exec (.silenceExpiry 0) { working with clock := 501000 })).lane 0).state = .down ∧
    ((after (exec (.closeAck 2) working)).lane 2).limit = 9 ∧
    ((after (exec (.closeTimerExpiry 2) { working with clock := 201000 })).lane 2).state = .down ∧
    ((after (exec (.sourceClose 2) working)).lane 2).sending = some .closeAck := by decide +kernel

/-- Lane 1's transmitter sends a PROBE. -/
def sendingProbe : State := laneAt 1 { probing with sending := some (.probe 2), timers := { probing.timers with probeInterval := none } }

theorem witness_LaneTransmitterKeepsOrder : sendingProbe.running = true ∧ (sendingProbe.lane 1).sending = some (.probe 2) := by
  decide +kernel

theorem test_laneFrameSent :
    ((after (exec (.laneFrameSent 1) sendingProbe)).lane 1).timers.probeInterval = some 11000 := by decide +kernel

/-- Lane 0 hunts in ACTIVE. -/
def idleActive : State := laneAt 0 active

theorem witness_KeepaliveMovesTheWindow : Hears idleActive 0 ∧ (idleActive.lane 0).inSession = true := by decide +kernel

theorem test_keepalive : [500, 508, 509, 499, 33268].map (fun next =>
    let l := (after (exec (.keepalive 0 next) idleActive)).lane 0
    (l.e, l.reservation, l.pendingMissing, l.counters.overruns)) =
    [(500, 8, 0, 0), (508, 0, 8, 0), (500, 8, 0, 1), (500, 8, 0, 0), (500, 8, 0, 0)] := by decide +kernel

theorem witness_CreditFrameTriggers :
    ({ working with clock := 51000 } : State).running = true ∧ (({ working with clock := 51000 } : State).lane 0).state = .active ∧
    (({ working with clock := 51000 } : State).lane 0).timers.refresh = some 51000 := by decide +kernel

theorem test_credit_refresh :
    ((after (exec (.creditRefreshExpiry 0) { working with clock := 51000 })).lane 0).sending = some (.credit 507) := by
  decide +kernel

/-- Section 1.4's example after its first free: lane 0 with W = 3 of 16, lane 2 with W = 2 of 4, F = 10 and B = 24. -/
def shortOfBlocks : State :=
  { State.reset with
    lanes := #v[{ active with limit := 502, config := .default }, .powerOn,
      { active with limit := 501, config := { LaneConfig.default with creditCap := 4 } }, .powerOn]
    store := { Store.powerOn with freeDescriptors := 10, freeBlocks := 24, pointer := 1 } }

theorem witness_CreditGoesRoundRobin :
    shortOfBlocks.running = true ∧ shortOfBlocks.reserved + 1 ≤ shortOfBlocks.store.freeDescriptors ∧
    4 * (shortOfBlocks.reserved + 1) ≤ shortOfBlocks.store.freeBlocks ∧ (shortOfBlocks.lane (1 + 1)).state = .active ∧
    (shortOfBlocks.lane (1 + 1)).reservation < (shortOfBlocks.lane (1 + 1)).config.creditCap ∧
    (shortOfBlocks.lane (1 + 0)).state ≠ .active ∧ (working.lane 0).reservation = (working.lane 0).config.creditCap := by
  decide +kernel

theorem test_creditGrant :
    let t := after (exec .creditGrant shortOfBlocks)
    (t.lane 2).reservation = 3 ∧ t.reserved = 6 ∧ t.store.pointer = 3 ∧
    (after (exec .creditGrant { shortOfBlocks with store := { shortOfBlocks.store with freeBlocks := 23 } })).reserved = 5 := by
  decide +kernel

/-! ## Record admission -/

theorem witness_HeaderDecisionByCheckFormAndWindow :
    Hears idleActive 0 ∧ (idleActive.lane 0).inSession = true ∧ 13 ≤ (19#16).toNat ∧ (19#16).toNat ≤ 260 := by decide +kernel

theorem test_header_decision : [500, 503, 507, 508, 499].map (fun seq =>
    let l := (after (exec (.recordHeader 0 19 0 (header seq) (crc8 (headerBytes (header seq)))) idleActive)).lane 0
    (l.e, l.reservation, l.assembly.map (·.missing), l.counters.overruns, l.counters.duplicates)) =
    [(501, 7, some none, 0, 0), (504, 4, some (some 3), 0, 0), (508, 0, some (some 7), 0, 0), (500, 8, none, 1, 0),
     (500, 8, none, 0, 1)] := by decide +kernel

theorem test_header_check_and_form :
    ((after (exec (.recordHeader 0 19 0 (header 500) 0) idleActive)).lane 0).counters.headerCheckErrors = 1 ∧
    ((after (exec (.recordHeader 0 20 0 (header 500) (crc8 (headerBytes (header 500)))) idleActive)).lane 0).counters.malformed =
      1 := by decide +kernel

/-- The bytes a short RECORD frame's CRC covers. -/
def shortRecord : List Byte := coveredBytes 0 0x12 [1, 2, 3, 4, 5, 6, 7, 8, 9, 10]

theorem witness_RecordFrameEndVerdicts :
    (working.running = true ∧ (working.lane 0).receiver = .record covered499 ([4, 5, 6, 7, 8, 9] : List Byte).length true) ∧
    (Hears working 2 ∧ ([1, 2, 3, 4, 5, 6, 7, 8, 9, 10] : List Byte).length < 11) ∧
    (Hears working 1 ∧ (working.lane 1).inSession = false) := by decide +kernel

theorem test_recordEnd :
    let t := after (exec (.recordEnd 0 [4, 5, 6, 7, 8, 9] (crc16 (covered499 ++ [4, 5, 6, 7, 8, 9]))) working)
    t.classifier.intake.map (·.payload) = [[1, 2, 3, 4, 5, 6], [4, 5, 6, 7, 8, 9]] ∧ (t.lane 0).assembly = none ∧
    ((after (exec (.recordEnd 2 shortRecord (crc16 shortRecord)) working)).lane 2).counters.malformed = 1 ∧
    ((after (exec (.recordEnd 1 shortRecord (crc16 shortRecord)) working)).lane 1).counters.protocolErrors = 1 := by
  decide +kernel

/-! ## Classification -/

/-- An enabled rule that delivers or discards. -/
def rule (field offset operator : Byte) (mask value : Half) (chain : Bool) (action queue label : Byte) : RuleEntry :=
  ⟨true, chain, field, offset, operator, mask, value, action, queue, label⟩

/-- The bank of section 4.3's example. -/
def exampleBank : RuleBank :=
  { RuleBank.powerOn with rules := Vector.ofFn fun i =>
      ([rule 0 0 0 0xFFFF 3 true 1 0 0, rule 2 0 0 0x00FF 0x20 false 1 1 5, rule 6 0 2 0xFFFF 0 false 1 7 1,
        rule 5 4 4 0x8000 0 true 1 0 0, { rule 3 0 2 0xFFFF 8 true 1 0 0 with enabled := false },
        rule 1 0 0 0xFFFF 100 false 1 2 0, rule 4 0 0 0x00F0 0x40 false 0 0 0] : List RuleEntry).getD i.val .zero }

/-- The five records of that example. -/
def exampleRecords : List Record :=
  [{ sample with missing := none, payloadLength := 12, payload := [0x11, 0, 0, 0, 0x80, 0, 0, 0, 0, 0, 0, 0] },
   { sample with kind := 0x21, payloadLength := 12, payload := [0x11, 0, 0, 0, 0, 0, 0, 0, 0, 0, 0, 0] },
   { sample with lane := 0, channel := 100, missing := none, payloadLength := 0, payload := [] },
   { sample with lane := 1, kind := 5, channel := 100, missing := none, payload := [0x4A, 0, 0, 0, 0x80, 1] },
   { sample with lane := 2, kind := 5, channel := 100, missing := none, payloadLength := 5, payload := [0x30, 0, 0, 0, 0x80] }]

theorem test_judge : exampleRecords.map exampleBank.judge =
    [(some 1, .deliver 1 5), (some 2, .deliver 7 1), (none, .deliver 0 0), (some 6, .discard), (none, .deliver 0 0)] := by
  decide +kernel

theorem witness_RuleTruth :
    (rule 6 0 4 0xFFFF 0 false 1 7 1).field.toNat ≤ 6 ∧ (rule 6 0 4 0xFFFF 0 false 1 7 1).operator.toNat ≤ 4 ∧
    ruleField sample (rule 5 4 0 0 0 false 0 0 0) = some 0x0506 ∧ ruleField sample (rule 5 5 0 0 0 false 0 0 0) = none ∧
    ruleField sample (rule 4 5 0 0 0 false 0 0 0) = some 6 ∧ ruleField sample (rule 4 6 0 0 0 false 0 0 0) = none := by
  decide +kernel

theorem witness_FirstMatchingChainDecides :
    (exampleBank.ChainAt 0 1 ∧ exampleBank.ChainMatches (exampleRecords.getD 0 sample) 0 1) ∧
    (∀ i' j', exampleBank.ChainAt i' j' → j' < (0 : Fin 32) →
      ¬exampleBank.ChainMatches (exampleRecords.getD 0 sample) i' j') ∧
    (∀ i j, RuleBank.powerOn.ChainAt i j → ¬RuleBank.powerOn.ChainMatches sample i j) ∧ exampleBank.valid = true := by
  refine ⟨⟨?_, ?_⟩, fun _ j' _ h => absurd h (Nat.not_lt_zero j'.val), fun i j h k => ?_, by decide +kernel⟩
  · unfold RuleBank.ChainAt; decide +kernel
  · unfold RuleBank.ChainMatches; decide +kernel
  · have hz : ∀ i : Fin 32, RuleBank.powerOn.rules[i].enabled = false := by decide +kernel
    have := (k i (le_refl _) h.1).1
    rw [hz] at this; cases this

theorem witness_WalkEndHandsTheOutcomeOn :
    working.running = true ∧ working.classifier.walk = some ⟨sample, 998⟩ ∧ working.classifier.pendingCommit = false :=
  ⟨rfl, rfl, rfl⟩

theorem test_walkEnd :
    let t := after (exec .walkEnd working)
    (t.queue 0).list.map (·.admission) = [some 1] ∧ t.classifier.counters.defaultDecisions = 1 ∧
    t.classifier.walk = some ⟨sample, 1000⟩ := by decide +kernel

/-- A RULES_COMMIT has left its request in execution behind the walk, and a SYNC waits behind it. -/
def committing : State :=
  { working with
    classifier := { working.classifier with pendingCommit := true, staging := { RuleBank.powerOn with defaultAction := 0 } }
    link := { working.link with requests := [], executing := some ⟨7, 0x23, []⟩, syncWaiting := [40] } }

/-- The same with the commit not pending. -/
def notCommitting : State := { committing with classifier := { committing.classifier with pendingCommit := false } }

theorem witness_PendingCommitIsTakenAtWalkEnd :
    committing.running = true ∧ committing.classifier.walk = some ⟨sample, 998⟩ ∧ committing.classifier.pendingCommit = true ∧
    committing.link.executing = some ⟨7, 0x23, []⟩ ∧ exec .walkEnd notCommitting = .next (after (exec .walkEnd notCommitting)) :=
  ⟨rfl, rfl, rfl, rfl, rfl⟩

theorem witness_PendingCommitIsTakenAtWalkEnd_sync : working.link.executing = none ∧ fullOutbound.link.executing = none := ⟨rfl, rfl⟩

theorem test_commit_at_walk_end :
    let t := after (exec .walkEnd committing)
    t.classifier.generation = 2 ∧ answer (exec .walkEnd committing) = [0, 0, 2] ∧ t.classifier.active.defaultAction = 0 ∧
    t.link.expected = some 41 := by decide +kernel

theorem witness_StagingBankIsWrittenAndRead :
    Starts (asked 0x20 [31, 3, 6, 255, 4, 0xFF, 0xFF, 0, 0, 1, 7, 15]) ⟨7, 0x20, [31, 3, 6, 255, 4, 0xFF, 0xFF, 0, 0, 1, 7, 15]⟩ [] ∧
    Starts (asked 0x22 [1, 7]) ⟨7, 0x22, [1, 7]⟩ [] ∧ Starts (asked 0x24 []) ⟨7, 0x24, []⟩ [] ∧
    Starts (asked 0x21 [1, 32]) ⟨7, 0x21, [1, 32]⟩ [] :=
  ⟨starts_asked _ _, starts_asked _ _, starts_asked _ _, starts_asked _ _⟩

theorem test_rule_requests :
    [[31, 3, 6, 255, 4, 0xFF, 0xFF, 0, 0, 1, 7, 15], [32, 3, 6, 0, 4, 0, 0, 0, 0, 1, 7, 15],
      [31, 4, 6, 0, 4, 0, 0, 0, 0, 1, 7, 15]].map (fun b => answer (exec .ruleSet (asked 0x20 b))) = [[0], [0x20], [0x20]] ∧
    (after (exec .ruleSet (asked 0x20 [31, 3, 6, 255, 4, 0xAB, 0xCD, 1, 2, 1, 7, 15]))).classifier.staging.rules[31] =
      ⟨true, true, 6, 255, 4, 0xABCD, 0x0102, 1, 7, 15⟩ ∧
    [[1, 32], [0, 33], [2, 0]].map (fun b => answer (exec .ruleGet (asked 0x21 b))) =
      [[0, 0, 1, 0, 0, 0, 0, 0, 0, 0, 0, 1, 0, 0], [0x20], [0x20]] := by decide +kernel

theorem test_default_and_revert :
    (after (exec .defaultSet (asked 0x22 [0, 9]))).classifier.staging.defaultQueue = 9 ∧
    (after (exec .rulesRevert (asked 0x24 []
      { working with classifier := { working.classifier with staging := exampleBank } }))).classifier.staging = .powerOn := by
  decide +kernel

theorem witness_RulesCommitIsValidatedThenTaken :
    Starts (asked 0x23 []) ⟨7, 0x23, []⟩ [] ∧ exampleBank.firstInvalid = none ∧
    ({ exampleBank with defaultAction := 2 } : RuleBank).firstInvalid = some 32 ∧
    ({ exampleBank with rules := exampleBank.rules.set 31 (rule 0 0 0 0 0 true 1 0 0) } : RuleBank).firstInvalid = some 31 :=
  ⟨starts_asked _ _, by decide +kernel, by decide +kernel, by decide +kernel⟩

theorem test_rulesCommit :
    (after (exec .rulesCommit (asked 0x23 []))).classifier.pendingCommit = true ∧
    answer (exec .rulesCommit (asked 0x23 [] { working with classifier := { working.classifier with walk := none, intake := [] } })) =
      [0, 0, 2] ∧
    answer (exec .rulesCommit (asked 0x23 [] { working with classifier := { working.classifier with
      staging := { RuleBank.powerOn with defaultQueue := 8 } } })) = [0x24, 32] := by decide +kernel

/-! ## Delivery queues -/

/-- Section 5.3's example before E arrives: C3 and D4 queued, two records outstanding, depth limit 4, DROP_OLDEST. -/
def fullQueue : State :=
  working.setQueue 3 { Queue.powerOn true with
    config := { QueueConfig.default true with depthLimit := 4, policy := .dropOldest }
    list := [sampleIn 3 3, sampleIn 3 4]
    charge := 4
    admissionCounter := 4 }

theorem test_admission :
    let t := fullQueue.offer 3 false sample
    (t.queue 3).list.map (·.admission) = [some 4, some 5] ∧ (t.queue 3).charge = 4 ∧ (t.queue 3).counters.evicted = 1 ∧
    t.store.freeDescriptors = 1020 := by decide +kernel

theorem test_requeue_by_age :
    ((fullQueue.requeue 3 (sampleIn 3 1)).queue 3).list.map (·.admission) = [some 1, some 3, some 4] ∧
    ((fullQueue.comeBack 3 { sampleIn 3 1 with deliveryCount := 4 }).queue 3).counters.droppedExhausted = 1 := by decide +kernel

theorem witness_ReturnedRecordGoesByAgeOrSpills :
    (fullQueue.queue 3).list.Pairwise (fun a b => ((4#32) - b.admission.getD 0).toNat < ((4#32) - a.admission.getD 0).toNat) ∧
    ∀ y ∈ (fullQueue.queue 3).list, ((4#32) - y.admission.getD 0).toNat ≠ ((4#32) - (sampleIn 3 1).admission.getD 0).toNat := by
  decide +kernel

theorem witness_QueueConfigSetsTheParameters :
    Starts (asked 0x30 [7, 7, 4, 0, 3, 0xFF, 0xFF, 15, 6, 4, 0, 0xFF, 0xFF])
      ⟨7, 0x30, [7, 7, 4, 0, 3, 0xFF, 0xFF, 15, 6, 4, 0, 0xFF, 0xFF]⟩ [] := starts_asked _ _

theorem test_queueConfig : [
      [7, 7, 4, 0, 3, 0xFF, 0xFF, 15, 6, 4, 0, 0xFF, 0xFF], [7, 7, 4, 1, 3, 0, 0, 15, 6, 4, 0, 0, 0],
      [7, 8, 4, 0, 3, 0, 0, 15, 6, 4, 0, 0, 0], [7, 7, 4, 0, 4, 0, 0, 15, 6, 4, 0, 0, 0],
      [7, 7, 4, 0, 3, 0, 0, 16, 6, 4, 0, 0, 0], [7, 7, 4, 0, 3, 0, 0, 15, 7, 4, 0, 0, 0],
      [7, 7, 4, 0, 3, 0, 0, 15, 8, 4, 0, 0, 0], [8, 7, 4, 0, 3, 0, 0, 15, 6, 4, 0, 0, 0],
      [1, 1, 0, 1, 0, 0, 0, 3, 0xFF, 0, 0, 0, 0], [1, 0, 1, 0, 0, 0, 0, 3, 0xFF, 0, 0, 0, 0]].map
      (fun b => answer (exec .queueConfig (asked 0x30 b))) =
    [[0], [0x20], [0x20], [0x20], [0x20], [0x20], [0x20], [0x20], [0x21, 0, 2], [0x21, 0, 2]] := by decide +kernel

theorem witness_QueueGetReadsAndPurgeFrees :
    Starts (asked 0x31 [7]) ⟨7, 0x31, [7]⟩ [] ∧ Starts (asked 0x32 [7]) ⟨7, 0x32, [7]⟩ [] := ⟨starts_asked _ _, starts_asked _ _⟩

theorem test_queueGet :
    answer (exec .queueGet (asked 0x31 [1])) =
      [0, 1, 1, 0, 0, 0, 0, 3, 0xFF, 0, 1, 0, 0, 0, 1, 0, 2, 0, 0, 0, 2, 1, 0, 0, 0, 2] ∧
    answer (exec .queueGet (asked 0x31 [8])) = [0x20] := by decide +kernel

theorem test_queuePurge :
    answer (exec .queuePurge (asked 0x32 [1])) = [0, 0, 1] ∧
    ((after (exec .queuePurge (asked 0x32 [1]))).queue 1).charge = 1 ∧
    answer (exec .queuePurge (asked 0x32 [8])) = [0x20] := by decide +kernel

/-! ## Fetch, leases and release -/

theorem witness_FetchSettlesItsQueue :
    (∀ q, (working.queue q).config.priority ≤ 3) ∧ working.bestQueue = some 1 ∧ State.reset.bestQueue = none ∧
    Starts (asked 0x40 [0xFF, 16, 1]) ⟨7, 0x40, [0xFF, 16, 1]⟩ [] ∧ Starts (asked 0x40 [1, 1, 0]) ⟨7, 0x40, [1, 1, 0]⟩ [] :=
  ⟨by decide +kernel, by decide +kernel, by decide +kernel, starts_asked _ _, starts_asked _ _⟩

theorem test_fetch_refusals : [[8, 1, 0], [0, 0, 0], [0, 17, 0], [0, 1, 2], [0, 1, 0], [2, 1, 0]].map
      (fun b => answer (exec .fetch (asked 0x40 b))) =
    [[0x20, 0], [0x20, 0], [0x20, 0], [0x20, 0], [1, 0], [0x22, 0]] := by decide +kernel

theorem test_fetch_claim : answer (exec .fetch (asked 0x40 [0xFF, 16, 0])) =
    [0, 1, 0x13, 1, 3, 0x20, 0, 9, 0, 100, 1, 2, 3, 4, 0, 0, 0, 7, 0, 1, 1, 6, 0, 0, 5, 0, 2, 1, 2, 3, 4, 5, 6] := by
  decide +kernel

theorem test_entry_example :
    let e := entryBytes (sampleIn 1 2) false (some (handleOf 2 3))
    e.headD 0 = 0x13 ∧ e.length = 31 ∧ e.drop 20 = [0x00, 0x83, 0x05, 0x00, 0x02, 1, 2, 3, 4, 5, 6] := by decide +kernel

theorem test_deliveries_take_the_head :
    (working.deliverMany .take 1 2 993).2.length = 1 ∧ (working.deliverMany .take 1 2 994).2.length = 0 ∧
    (working.deliverMany .claim 1 2 0).1.outstanding = 2 := by decide +kernel

theorem witness_HandlesAreSettledInOrder :
    Starts (asked 0x41 [1, 0, 131]) ⟨7, 0x41, [1, 0, 131]⟩ [] ∧ Starts (asked 0x42 [1, 0, 131]) ⟨7, 0x42, [1, 0, 131]⟩ [] ∧
    Starts (asked 0x43 [1, 0, 131]) ⟨7, 0x43, [1, 0, 131]⟩ [] ∧ ([1, 0, 131] : List Byte) = byteOf 1 :: [131].flatMap be16 ∧
    (working.validHandle 131).isSome = true ∧ working.validHandle 67 = none :=
  ⟨starts_asked _ _, starts_asked _ _, starts_asked _ _, by decide +kernel, by decide +kernel, by decide +kernel⟩

theorem test_settlements :
    answer (exec .release (asked 0x41 [2, 0, 131, 0, 131])) = [0, 2, 2, 6] ∧
    answer (exec .returnHandles (asked 0x42 [1, 0, 131])) = [0, 1, 3] ∧
    answer (exec .extend (asked 0x43 [1, 0, 131])) = [0, 1, 5] ∧ answer (exec .release (asked 0x41 [0])) = [0x20] ∧
    answer (exec .release (asked 0x41 (33 :: List.replicate 66 0))) = [0x20] := by decide +kernel

theorem test_returned_goes_before_younger :
    ((after (exec .returnHandles (asked 0x42 [1, 0, 131]))).queue 1).list.map (·.admission) = [some 1, some 2] := by decide +kernel

theorem test_handles : [handleOf 3 0, handleOf 7 1, handleOf 0 2, handleOf 8 1] = [192, 449, 2, 513] := by decide +kernel

theorem witness_LeaseExpiryEmptiesTheSlot :
    ({ working with clock := 5000 } : State).running = true ∧
    (({ working with clock := 5000 } : State).slot 3).occupant =
      some ⟨{ sampleIn 1 1 with deliveryCount := 1 }, 1, some 5000⟩ := by decide +kernel

theorem test_leaseExpiry :
    let t := after (exec (.leaseExpiry 3) { working with clock := 5000 })
    t.slot 3 = ⟨3, none⟩ ∧ (t.queue 1).counters.expired = 1 ∧ (t.queue 1).queued = 2 ∧
    exec (.leaseExpiry 3) working = .next working := by
  refine ⟨by decide +kernel, by decide +kernel, by decide +kernel, rfl⟩

/-! ## Notices -/

theorem witness_RaiseGathersAndStoreWarns :
    (∀ a ∈ ([] : List AlertEntry), a.kind ≠ .laneUp) ∧ working.notice.alerts = [] ++ ⟨.laneUp, 1, 1⟩ :: [] ∧
    (∀ a ∈ working.notice.alerts, a.kind ≠ .storeLow) := by decide +kernel

theorem test_store_low :
    let s : State := { working with store := { working.store with freeDescriptors := 63 } }
    s.storeLowTest.store.armed = false ∧ s.storeLowTest.notice.alerts = [⟨.laneUp, 1, 1⟩, ⟨.storeLow, 1, 0⟩] ∧
    ({ working.store with freeDescriptors := 95, armed := false } : Store).free sample =
      { working.store with freeDescriptors := 96, freeBlocks := 2044, armed := true } := by decide +kernel

/-- Q1 waits for a hold of 50 ms with one record unreported since 900. -/
def holding : State :=
  { working with
    clock := 50900
    queues := working.queues.set 1 { working.queue 1 with
      config := { QueueConfig.default true with noticeThreshold := 0, noticeHold := 50 } }
    notice := { working.notice with levels := working.notice.levels.set 1 ⟨0, some 900, false⟩ } }

theorem witness_NoticeTimersExpire :
    (holding.running = true ∧ holding.notice.levels[1].since = some 900 ∧ (holding.queue 1).config.noticeHold = 50 ∧
      900 + 1000 * 50 ≤ holding.clock ∧ holding.notice.levels[1].reported < (holding.queue 1).list.length) ∧
    (({ working with clock := 900000 } : State).notice.state = .awaitingAck ∧
      ({ working with clock := 900000 } : State).notice.renotice = some 900000) := by decide +kernel

theorem test_notice_timers :
    (after (exec (.holdExpiry 1) holding)).notice.levels[1].due = true ∧
    (after (exec .renoticeExpiry { working with clock := 900000 })).notice.state = .waitingLink := by decide +kernel

theorem witness_NoticeAckTakesTheReportedAway :
    Starts (asked 0x50 [7]) ⟨7, 0x50, [7]⟩ [] ∧ (asked 0x50 [7]).notice.state = .awaitingAck ∧
    (asked 0x50 [7]).notice.snapshot = some reported ∧ (7 : Byte) = (asked 0x50 [7]).notice.tag ∧
    (6 : Byte) ≠ (asked 0x50 [6]).notice.tag := ⟨starts_asked _ _, rfl, rfl, rfl, by decide +kernel⟩

theorem test_noticeAck :
    let t := after (exec .noticeAck (asked 0x50 [7]))
    t.notice.alerts = [] ∧ t.notice.levels[1] = ⟨1, none, false⟩ ∧ t.notice.state = .quiet ∧
    answer (exec .noticeAck (asked 0x50 [6])) = [0x25] := by decide +kernel

theorem witness_NoticeConfigTakesThreeValues :
    Starts (asked 0x51 [1, 0xEA, 0x60, 3, 0xFF]) ⟨7, 0x51, [1, 0xEA, 0x60, 3, 0xFF]⟩ [] := starts_asked _ _

theorem test_noticeConfig : [[1, 0xEA, 0x60, 3, 0xFF], [0, 0, 0, 0, 0], [2, 0, 0, 0, 0], [1, 0, 9, 0, 0], [1, 0, 10, 0, 0],
      [1, 0xEA, 0x61, 0, 0], [1, 0, 0, 4, 0]].map (fun b => answer (exec .noticeConfig (asked 0x51 b))) =
    [[0], [0], [0x20], [0x20], [0], [0x20], [0x20]] := by decide +kernel

theorem test_interval_zero_keeps_a_running_deadline :
    let t := after (exec .noticeConfig (asked 0x51 [1, 0, 0, 0, 0]))
    t.notice.interval = 0 ∧ t.notice.renotice = working.notice.renotice ∧ t.notice.renotice.isSome = true := by decide +kernel

/-! ## STATUS and COUNTERS -/

theorem witness_StatusAndCountersReport :
    Starts (asked 0x58 []) ⟨7, 0x58, []⟩ [] ∧ Starts (asked 0x59 [1, 7, 1]) ⟨7, 0x59, [1, 7, 1]⟩ [] := ⟨starts_asked _ _, starts_asked _ _⟩

theorem test_status : answer (exec .status (asked 0x58 [])) =
    [0, 1, 0, 0, 2, 1, 0xF4, 1, 0xFB, 8, 1, 0, 0, 0xFF, 0xFF, 0, 3, 0, 10, 0, 11, 2, 4, 0, 0, 0xFF, 0xFF, 0,
     0, 0, 0, 0, 0, 1, 0, 2, 0, 0, 0, 0, 0, 0, 0, 0, 0, 0, 0, 0, 0, 0, 0, 0, 0, 0, 0, 0, 0, 0, 0, 0,
     1, 3, 0xFB, 7, 0xFB, 0, 10, 0, 1, 0, 2, 7, 1, 2, 1, 1] := by decide +kernel

theorem test_counters :
    [[0, 3, 0], [0, 4, 0], [1, 7, 1], [1, 8, 0], [2, 0, 1], [2, 1, 0], [3, 0, 1], [4, 0, 0], [3, 0, 2]].map
      (fun b => (answer (exec .counters (asked 0x59 b))).length) = [44, 1, 60, 1, 156, 1, 52, 1, 1] ∧
    (after (exec .counters (asked 0x59 [3, 0, 1] (after (exec (.linkError .crc) working))))).link.counters.crcErrors = 0 := by
  decide +kernel

/-! ## Every command completes; the laws meet in one state -/

theorem test_every_command_completes : [Instr.resetnAssert, .resetnRelease true true, .controlFrameReceived 8 0x58 [], .linkError .framing,
    .gapError, .sync 9 [], .ident, .linkConfig, .clearError, .unknownRequest, .laneConfig, .laneOpen, .laneClose, .laneAbort,
    .ruleSet, .ruleGet, .defaultSet, .rulesCommit, .rulesRevert, .queueConfig, .queueGet, .queuePurge, .fetch, .release,
    .returnHandles, .extend, .noticeAck, .noticeConfig, .status, .counters, .resetPart, .partResetEffect, .resetStore,
    .controlFrameSent, .noticeBegin, .renoticeExpiry, .holdExpiry 1, .laneBadFrame 0, .laneCharGapExpiry 0,
    .echo 1 2 (probePattern 2) 5, .probeIntervalExpiry 1, .probeWindowExpiry 1, .laneFrameSent 1,
    .recordHeader 2 19 0 (header 10) 0, .recordEnd 0 [1, 2, 3, 4, 5, 6] 0, .keepalive 2 10, .sourceClose 2, .closeAck 2,
    .laneProtocolError 2 0 [], .silenceExpiry 0, .closeTimerExpiry 2, .creditRefreshExpiry 0, .creditGrant, .walkEnd,
    .leaseExpiry 3].all (fun c => completes (exec c working)) = true := by decide +kernel

theorem working_keeps_MemoryLaw : MemoryLaw working := by unfold MemoryLaw; decide +kernel

theorem working_keeps_ChargeLaw : ChargeLaw working := by unfold ChargeLaw; decide +kernel

theorem working_keeps_LevelLaw : LevelLaw working := by unfold LevelLaw; decide +kernel

theorem working_keeps_RulesLaw : RulesLaw working := by unfold RulesLaw; decide +kernel

theorem working_keeps_NoticeLaw : NoticeLaw working := by unfold NoticeLaw; decide +kernel

theorem working_keeps_LinkLaw : LinkLaw working := by
  refine ⟨by decide, by decide, by decide, by decide, by decide, by decide, fun x h => ?_, by decide, by decide, by decide, by decide, by decide⟩
  cases h; decide +kernel

theorem working_keeps_TimeLaw : TimeLaw working := by
  have hh : ∀ q : QueueId, (working.queue q).config.noticeHold = 0 := by decide +kernel
  refine ⟨?_, ?_, fun q h => absurd (hh q) h, by decide, ?_, ?_, by decide⟩
  · have h : ∀ n : LaneId, ∀ l, working.lane n = l → l.TimerLaw 1000 := by
      intro n; fin_cases n <;> (intro l hl; cases hl; refine ⟨by decide, by decide, by decide, by decide, by decide, ?_, ?_, ?_, ?_, ?_⟩ <;> (intro d hd; cases hd <;> decide))
    exact fun n => h n _ rfl
  · intro i
    by_cases h : i = 3
    · subst h; intro o ho; cases ho; intro d hd; cases hd; decide
    · have hz : ∀ i : SlotId, i ≠ 3 → (working.slot i).occupant = none := by decide +kernel
      rw [hz i h]; intro o ho; cases ho
  · intro d hd; cases hd; decide
  · intro w hw; cases hw; decide

theorem working_keeps_RangeLaw : RangeLaw working := by
  refine ⟨?_, by decide +kernel, by decide +kernel, by decide, by decide, by decide, by decide⟩
  have h1 : ∀ n : LaneId, ∀ v ∈ (working.lane n).counters.values, v ≤ 4294967295 := by decide +kernel
  have h2 : ∀ q : QueueId, ∀ v ∈ (working.queue q).counters.values, v ≤ 4294967295 := by decide +kernel
  have h3 : ∀ v ∈ working.groupValues .rules, v ≤ 4294967295 := by decide +kernel
  have h4 : ∀ v ∈ working.groupValues .link, v ≤ 4294967295 := by decide +kernel
  rintro (n | q | _ | _)
  exacts [h1 n, h2 q, h3, h4]

theorem working_keeps_FieldLaw : FieldLaw working := by
  have hs : sample.Accepted ∧ sample.Complete ∧ sample.Unclassified := by
    refine ⟨⟨by decide, by decide, ?_⟩, by decide, by decide⟩
    intro m hm; cases hm; decide
  have hq : ∀ number, (sampleIn 1 number).Classified 1 := by
    intro n
    refine ⟨⟨(by decide : 6 ≤ 240), (by decide : 0 ≤ 255), ?_⟩, ⟨rfl, rfl⟩, rfl, rfl, rfl, ?_⟩
    · intro m hm; cases hm; decide
    · intro m hm; cases hm; decide
  refine ⟨?_, by intro r hr; simp only [working, List.mem_singleton] at hr; subst hr; exact hs, by intro w hw; cases hw; exact hs, ?_, ?_⟩
  · intro n; fin_cases n <;> (intro r hr; cases hr)
    exact ⟨rfl, ⟨by decide, by decide, nofun⟩, by decide, rfl, _, rfl, by decide +kernel⟩
  · intro q; fin_cases q <;> (intro r hr; cases hr)
    · exact hq 2
    · rename_i h; cases h
  · intro i
    by_cases h : i = 3
    · subst h; intro o ho; cases ho
      refine ⟨⟨by decide, by decide, ?_⟩, by decide, by decide, rfl, rfl, ?_⟩
      · intro m hm; cases hm; decide
      · intro m hm; cases hm; decide
    · have hz : ∀ i : SlotId, i ≠ 3 → (working.slot i).occupant = none := by decide +kernel
      rw [hz i h]; intro o ho; cases ho

theorem working_keeps_OrderLaw : OrderLaw working ∧ AgesBelowWrap working := by
  refine ⟨?_, ?_⟩
  · unfold OrderLaw; decide +kernel
  · unfold AgesBelowWrap; decide +kernel

theorem working_keeps_LineLaw : LineLaw working := by
  refine ⟨⟨by unfold Reception.FrameLaw; decide +kernel, by decide +kernel, by unfold Reception.GapLaw; decide +kernel⟩, fun n => ?_⟩
  have h : ∀ n : LaneId, (working.lane n).reception.FrameLaw 0x9E ∧ (working.lane n).reception.GapLaw working.clock ∧
      (working.lane n).TransmitLaw := by decide +kernel
  refine ⟨(h n).1, ?_, (h n).2⟩
  have h0 : (working.lane 0).GatherLaw 0 := by
    show _ ∧ _ ∧ _ ∧ _ ∧ _
    exact ⟨by decide +kernel, by decide +kernel, by decide +kernel, by decide, [4, 5], by decide +kernel, by decide⟩
  have idle : ∀ (n : LaneId) k, laneVerdict n none (List.take k []) = none := fun n k => by rw [List.take_nil]; rfl
  fin_cases n
  exacts [h0, idle 1, idle 2, idle 3]

/-- The hypotheses of the laws' statements meet in one state, which steps. -/
theorem witness_StepKeepsLaws :
    CreditLaw working ∧ MemoryLaw working ∧ ChargeLaw working ∧ LevelLaw working ∧ RulesLaw working ∧ LinkLaw working ∧
    NoticeLaw working ∧ TimeLaw working ∧ RangeLaw working ∧ FieldLaw working ∧ OrderLaw working ∧ AgesBelowWrap working ∧
    LineLaw working ∧ step working = .next (after (step working)) :=
  ⟨working_keeps_CreditLaw, working_keeps_MemoryLaw, working_keeps_ChargeLaw, working_keeps_LevelLaw, working_keeps_RulesLaw,
    working_keeps_LinkLaw, working_keeps_NoticeLaw, working_keeps_TimeLaw, working_keeps_RangeLaw, working_keeps_FieldLaw, working_keeps_OrderLaw.1,
    working_keeps_OrderLaw.2, working_keeps_LineLaw, rfl⟩

theorem witness_FetchResponseFitsItsLayout : FieldLaw working ∧ (sampleIn 1 2).queue = some 1 := ⟨working_keeps_FieldLaw, rfl⟩

end Sys2Proof.Tests
end

section
/-! The credit allocator (R10, R11): its two tests and its search as the rules state them, and the obligation about
CREDIT_GRANT (O26). -/
namespace Sys2Proof.Machine

theorem Lane.eligible_iff (l : Lane) : l.eligible = true ↔ l.state = .active ∧ l.reservation < l.config.creditCap := by
  simp only [Lane.eligible, Bool.and_eq_true, decide_eq_true_eq]

theorem State.creditRoom_iff (s : State) :
    s.creditRoom = true ↔ s.reserved + 1 ≤ s.store.freeDescriptors ∧ 4 * (s.reserved + 1) ≤ s.store.freeBlocks := by
  simp only [State.creditRoom, Bool.and_eq_true, decide_eq_true_eq]

/-- The lanes in the order in which the allocator considers them: each at its distance from the pointer (R11). -/
theorem State.grantee_eq (s : State) :
    s.grantee = if s.creditRoom then
      ((List.finRange 4).map (s.store.pointer + ·)).find? fun n => (s.lane n).eligible else none := by
  have order : ∀ p : LaneId, [p, p + 1, p + 2, p + 3] = (List.finRange 4).map (p + ·) := by decide
  simp only [State.grantee, order]

/-- With room, the credit goes to the eligible lane at distance `k` when no lane nearer to the pointer is eligible (R11). -/
theorem State.grantee_of_first_eligible {s : State} {k : Fin 4} (room : s.creditRoom = true)
    (eligible : (s.lane (s.store.pointer + k)).eligible = true)
    (first : ∀ j < k, ¬(s.lane (s.store.pointer + j)).eligible = true) : s.grantee = some (s.store.pointer + k) := by
  rw [State.grantee_eq, if_pos room, List.find?_eq_some_iff_getElem]
  refine ⟨eligible, k, by simp, by simp, fun j hj => ?_⟩
  simpa using first ⟨j, hj.trans k.isLt⟩ hj

/-- Without room, or without an eligible lane, the credit goes to no lane (R10). -/
theorem State.grantee_eq_none {s : State} (h : ¬s.creditRoom = true ∨ ∀ n, ¬(s.lane n).eligible = true) :
    s.grantee = none := by
  rw [State.grantee_eq]
  obtain noRoom | noLane := h
  · exact if_neg noRoom
  · rw [List.find?_eq_none.mpr fun n _ => noLane n, ite_self]

theorem State.grant_of_grantee {s : State} {n : LaneId} (h : s.grantee = some n) : s.grant = s.grantTo n := by
  simp only [State.grant, h]

/-- When no grant is made nothing changes, the pointer included (R11). -/
theorem State.grant_of_no_grantee {s : State} (h : s.grantee = none) : s.grant = s := by
  simp only [State.grant, h]

/-- A grant writes the lane's credit limit, with the CREDIT test it brings, and the pointer (R10, R11, R66). -/
theorem State.grantTo_eq (s : State) (n : LaneId) :
    s.grantTo n = { s with
      lanes := s.lanes.set n (({ s.lane n with limit := (s.lane n).limit + 1 } : Lane).testCreditAfterGrant s.clock)
      store := { s.store with pointer := n + 1 } } := rfl

/-- CREDIT_GRANT is the allocator's grant while RESETN is high (R10, R179). -/
theorem exec_creditGrant_of_running {s : State} (h : s.running = true) : exec .creditGrant s = .next s.grant :=
  State.event_next h State.grant

/-- Settles O26: the search of R11 finds the first eligible lane from the pointer on when there is room, and no lane
otherwise. -/
theorem creditGoesRoundRobin : Obligations.CreditGoesRoundRobin := by
  unfold Obligations.CreditGoesRoundRobin
  intro s running
  simp only [exec_creditGrant_of_running running, ← Lane.eligible_iff, ← State.creditRoom_iff]
  refine ⟨fun k room eligible first => ?_, fun h => ?_⟩
  · rw [State.grant_of_grantee (State.grantee_of_first_eligible room eligible first), State.grantTo_eq]
  · rw [State.grant_of_no_grantee (State.grantee_eq_none h)]

end Sys2Proof.Machine
end

section
/-! The requests over lanes (R25, R32, R39, R43, R181): the lanes a mask names, what an action over them does, and the
obligations about LANE_CONFIG (O16), LANE_OPEN (O17), LANE_CLOSE and LANE_ABORT (O18). -/
namespace Sys2Proof.Machine

/-! ## The lanes a mask names -/

theorem mem_maskLanes {mask : Byte} {n : LaneId} : n ∈ maskLanes mask ↔ mask.getLsbD n.val = true := by
  have everyLane : ∀ n : LaneId, n ∈ allLanes := by decide
  simp only [maskLanes, List.mem_filter, everyLane n, true_and]

theorem maskLanes_pairwise_lt (mask : Byte) : (maskLanes mask).Pairwise (· < ·) :=
  List.Pairwise.filter _ (by decide : allLanes.Pairwise (· < ·))

theorem maskLanes_nodup (mask : Byte) : (maskLanes mask).Nodup := (maskLanes_pairwise_lt mask).imp ne_of_lt

theorem laneMaskOk_iff {mask : Byte} : laneMaskOk mask = true ↔ mask ≠ 0 ∧ mask.toNat < 16 := by
  simp only [laneMaskOk, Bool.and_eq_true, decide_eq_true_eq]

theorem laneMaskArg_of_ok {mask : Byte} (h : mask ≠ 0 ∧ mask.toNat < 16) :
    laneMaskArg [mask] = some (maskLanes mask) := by
  simp only [laneMaskArg, laneMaskOk_iff.mpr h, if_true]

theorem laneMaskArg_of_not_ok {mask : Byte} (h : mask = 0 ∨ 16 ≤ mask.toNat) : laneMaskArg [mask] = none := by
  have notOk : ¬laneMaskOk mask = true := by rw [laneMaskOk_iff]; exact fun ⟨hne, hlt⟩ => h.elim hne hlt.not_ge
  simp only [laneMaskArg, notOk, if_false, Bool.false_eq_true]

/-- The mask names lane n, and LANE_CONFIG and LANE_OPEN find it in a state they refuse (R25, R32). -/
def State.BusyNamed (s : State) (mask : Byte) (n : LaneId) : Prop :=
  mask.getLsbD n.val = true ∧ ((s.lane n).state = .probing ∨ (s.lane n).state = .active ∨ (s.lane n).state = .closing)

/-- The refusal names the lowest busy lane: in a list in lane order the search meets it first (R25, R32). -/
theorem State.busyLane_eq_some {s : State} {mask : Byte} {n : LaneId} (busy : s.BusyNamed mask n)
    (first : ∀ m < n, ¬s.BusyNamed mask m) : s.busyLane (maskLanes mask) = some n := by
  obtain ⟨named, state⟩ := busy
  obtain ⟨before, after, parts⟩ := List.append_of_mem (mem_maskLanes.mpr named)
  have ordered := maskLanes_pairwise_lt mask
  rw [parts, List.pairwise_append] at ordered
  obtain ⟨-, -, below⟩ := ordered
  refine List.find?_eq_some_iff_append.mpr ⟨decide_eq_true state, before, after, parts, fun m hm => ?_⟩
  have namedBelow : mask.getLsbD m.val = true := mem_maskLanes.mp (parts ▸ List.mem_append_left _ hm)
  have idle := fun h => first m (below m hm n List.mem_cons_self) ⟨namedBelow, h⟩
  simpa only [Bool.not_eq_true', decide_eq_false_iff_not] using idle

theorem State.busyLane_eq_none {s : State} {mask : Byte} (h : ∀ n, ¬s.BusyNamed mask n) :
    s.busyLane (maskLanes mask) = none := by
  refine List.find?_eq_none.mpr fun n hn => ?_
  simpa only [decide_eq_true_eq] using fun state => h n ⟨mem_maskLanes.mp hn, state⟩

/-- The same change of every lane of a list without repetition, each lane as it was before: no lane sees another's change. -/
theorem State.foldl_mapLane (f : Nat → Lane → Lane) {lanes : List LaneId} (distinct : lanes.Nodup) (s : State) :
    lanes.foldl (fun s n => s.mapLane n (f s.clock)) s =
      { s with lanes := Vector.ofFn fun n => if n ∈ lanes then f s.clock (s.lane n) else s.lane n } := by
  induction lanes generalizing s with
  | nil =>
    have same : s.lanes = Vector.ofFn fun n => s.lane n := by ext i hi; simp [State.lane]
    simp only [List.foldl_nil, List.not_mem_nil, if_false, ← same]
  | cons k lanes ih =>
    obtain ⟨fresh, distinct⟩ := List.nodup_cons.mp distinct
    rw [List.foldl_cons, ih distinct, mapLane_clock]
    have entries : ∀ n, (if n ∈ lanes then f s.clock ((s.mapLane k (f s.clock)).lane n)
        else (s.mapLane k (f s.clock)).lane n) = if n ∈ k :: lanes then f s.clock (s.lane n) else s.lane n := by
      intro n
      by_cases h : n = k
      · subst h; simp [fresh]
      · simp [State.lane_mapLane, h, Ne.symm h]
    simp only [entries]
    rfl

/-! ## LANE_CONFIG and LANE_OPEN -/

/-- A request row whose block answers with `out` and leaves the control link alone. -/
theorem State.request_of_act {s t : State} {r : Frame} {rest : List Frame} {kind : Byte} {out : List Byte}
    {act : List Byte → State → State × List Byte} (starts : Starts s r rest) (hkind : r.kind = kind)
    (hlen : bodyLengthOk r = true) (hact : act r.body s.popRequest = (t, out)) (hlink : t.link = s.popRequest.link) :
    s.request kind act = .next { t with link := s.link.answered r out } := by
  rw [State.request_answered starts hkind hlen (by rw [hact]; exact hlink), hact]

/-- The same for a block that changes nothing. -/
theorem State.request_of_reply {s : State} {r : Frame} {rest : List Frame} {kind : Byte} {out : List Byte}
    {act : List Byte → State → State × List Byte} (starts : Starts s r rest) (hkind : r.kind = kind)
    (hlen : bodyLengthOk r = true) (hact : act r.body s.popRequest = (s.popRequest, out)) :
    s.request kind act = .next (s.replied r out) :=
  State.request_of_act (t := s.popRequest) starts hkind hlen hact rfl

theorem LaneConfig.inRange_iff (c : LaneConfig) : c.inRange = true ↔
    1 ≤ c.creditCap ∧ c.creditCap ≤ 64 ∧ 1 ≤ c.creditStep ∧ c.creditStep ≤ 16 ∧ c.creditStep ≤ c.creditCap ∧
    10 ≤ c.silenceTimeout ∧ c.silenceTimeout ≤ 60000 ∧ 100 ≤ c.probeWindow ∧ c.probeWindow ≤ 10000 ∧
    10 ≤ c.closeTimeout ∧ c.closeTimeout ≤ 10000 ∧ 1 ≤ c.errorBurst ∧ c.errorBurst ≤ 255 := by
  simp only [LaneConfig.inRange, Bool.and_eq_true, decide_eq_true_eq, and_assoc]

section
variable {body : List Byte} {mask : Byte} {c : LaneConfig} {n : LaneId} {s : State}

theorem laneConfigAct_of_bad_argument (h : laneConfigArg body = none) : laneConfigAct body s = (s, [0x20]) := by
  simp only [laneConfigAct, h]; rfl

theorem laneConfigAct_of_busy (h : laneConfigArg body = some (maskLanes mask, c)) (busy : s.BusyNamed mask n)
    (first : ∀ m < n, ¬s.BusyNamed mask m) : laneConfigAct body s = (s, [0x21, byteOf n.val]) := by
  simp only [laneConfigAct, h, State.busyLane_eq_some busy first]; rfl

theorem laneConfigAct_of_idle (h : laneConfigArg body = some (maskLanes mask, c)) (idle : ∀ n, ¬s.BusyNamed mask n) :
    laneConfigAct body s = ({ s with
      lanes := Vector.ofFn fun n => if mask.getLsbD n.val = true then { s.lane n with config := c } else s.lane n },
      [0x00]) := by
  have fold := State.foldl_mapLane (fun _ l => { l with config := c }) (maskLanes_nodup mask) s
  simp only [mem_maskLanes] at fold
  simp only [laneConfigAct, h, State.busyLane_eq_none idle, fold]; rfl

theorem laneOpenAct_of_bad_argument (h : laneMaskArg body = none) : laneOpenAct body s = (s, [0x20]) := by
  simp only [laneOpenAct, h]; rfl

theorem laneOpenAct_of_busy (h : laneMaskArg body = some (maskLanes mask)) (busy : s.BusyNamed mask n)
    (first : ∀ m < n, ¬s.BusyNamed mask m) : laneOpenAct body s = (s, [0x21, byteOf n.val]) := by
  simp only [laneOpenAct, h, State.busyLane_eq_some busy first]; rfl

theorem laneOpenAct_of_idle (h : laneMaskArg body = some (maskLanes mask)) (idle : ∀ n, ¬s.BusyNamed mask n) :
    laneOpenAct body s = ({ s with
      lanes := Vector.ofFn fun n => if mask.getLsbD n.val = true then (s.lane n).probing s.clock else s.lane n },
      [0x00]) := by
  have fold := State.foldl_mapLane Lane.enterProbing (maskLanes_nodup mask) s
  simp only [mem_maskLanes, Lane.enterProbing_eq] at fold
  simp only [laneOpenAct, h, State.busyLane_eq_none idle, fold]; rfl

end

/-- Settles O16: a body is refused, a busy lane is refused, or every named lane is written, as the argument check and the
search for a busy lane decide. -/
theorem laneConfigSetsNamedLanes : Obligations.LaneConfigSetsNamedLanes := by
  unfold Obligations.LaneConfigSetsNamedLanes
  intro s r rest mask cap step s1 s0 p1 p0 c1 c0 burst reprobe starts hkind hbody c valid busy
  have hlen : bodyLengthOk r = true := by simp [bodyLengthOk, hkind, hbody, requestLength]
  have arg : laneConfigArg r.body = if valid then some (maskLanes mask, c) else none := by
    have burstRange : c.errorBurst ≤ 255 := Nat.le_of_lt_succ burst.isLt
    have check : (laneMaskOk mask && c.inRange && decide (reprobe.toNat ≤ 1)) = true ↔ valid := by
      simp only [Bool.and_eq_true, laneMaskOk_iff, LaneConfig.inRange_iff, burstRange, and_true, decide_eq_true_eq, and_assoc,
        valid]
    rw [hbody]
    exact if_congr check rfl rfl
  refine ⟨fun refused => ?_, fun n ok hbusy first => ?_, fun ok idle => ?_⟩
  · rw [if_neg refused] at arg
    exact State.request_of_reply starts hkind hlen (laneConfigAct_of_bad_argument arg)
  · rw [if_pos ok] at arg
    exact State.request_of_reply starts hkind hlen (laneConfigAct_of_busy arg hbusy first)
  · rw [if_pos ok] at arg
    exact State.request_of_act starts hkind hlen (laneConfigAct_of_idle arg idle) rfl

/-- Settles O17: the same three cases, with entry to PROBING as the change of a lane. -/
theorem laneOpenEntersProbing : Obligations.LaneOpenEntersProbing := by
  unfold Obligations.LaneOpenEntersProbing
  intro s r rest mask starts hkind hbody busy
  have hlen : bodyLengthOk r = true := by simp [bodyLengthOk, hkind, hbody, requestLength]
  refine ⟨fun refused => ?_, fun n hne hlt hbusy first => ?_, fun hne hlt idle => ?_⟩
  · have arg : laneMaskArg r.body = none := by rw [hbody, laneMaskArg_of_not_ok refused]
    exact State.request_of_reply starts hkind hlen (laneOpenAct_of_bad_argument arg)
  · have arg : laneMaskArg r.body = some (maskLanes mask) := by rw [hbody, laneMaskArg_of_ok ⟨hne, hlt⟩]
    exact State.request_of_reply starts hkind hlen (laneOpenAct_of_busy arg hbusy first)
  · have arg : laneMaskArg r.body = some (maskLanes mask) := by rw [hbody, laneMaskArg_of_ok ⟨hne, hlt⟩]
    exact State.request_of_act starts hkind hlen (laneOpenAct_of_idle arg idle) rfl

end Sys2Proof.Machine
end

section
/-! LANE_CLOSE and LANE_ABORT (R39, R40, R43, R181): what each does to one lane, the action over the named lanes in their order,
and the obligation about both (O18). -/
namespace Sys2Proof.Machine

/-- A lane that LANE_CLOSE finds ACTIVE enters CLOSING, and its window is tested at once (R40, R41). -/
theorem State.enterClosing_eq (n : LaneId) (s : State) : s.enterClosing n = ({ s with
    lanes := s.lanes.set n (({ s.lane n with
      state := .closing
      lastSent := (s.lane n).limit
      timers := { (s.lane n).timers with
        refresh := none, close := some (s.clock + 1000 * (s.lane n).config.closeTimeout) }
      waiting := (s.lane n).waiting.filter fun f => !f.isCredit && !f.isProbe } : Lane).makeDue
        (.close (s.lane n).limit)) } : State).windowTested n := by
  rw [State.enterClosing, State.checkWindow_eq]; rfl

theorem State.mapLane_setLane (s : State) (n : LaneId) (l : Lane) (f : Lane → Lane) :
    (s.setLane n l).mapLane n f = s.setLane n (f l) := by
  simp only [State.mapLane, State.setLane, State.lane_set, vector_set_set]

/-- A change of a lane whose session has just ended. -/
theorem State.mapLane_endSession (n : LaneId) (f : Lane → Lane) (s : State) : (s.endSession n).mapLane n f = { s with
    lanes := s.lanes.set n (f (s.lane n).ended), store := s.store.freed (s.lane n).assembly } := by
  rw [State.endSession_eq]
  exact State.mapLane_setLane { s with store := s.store.freed (s.lane n).assembly } n _ f

theorem closeLane_of_active {n : LaneId} {s : State} (h : (s.lane n).state = .active) :
    closeLane n s = (s.enterClosing n, 0x00) := by
  simp only [closeLane, h]; rfl

theorem closeLane_of_probing {n : LaneId} {s : State} (h : (s.lane n).state = .probing) :
    closeLane n s = (s.endSession n, 0x00) := by
  simp only [closeLane, h]; rfl

theorem closeLane_of_unopened {n : LaneId} {s : State}
    (h : (s.lane n).state = .closing ∨ (s.lane n).state = .down ∨ (s.lane n).state = .failed) :
    closeLane n s = (s, 0x01) := by
  obtain h | h | h := h <;> (simp only [closeLane, h]; rfl)

theorem abortLane_of_down {n : LaneId} {s : State} (h : (s.lane n).state = .down) : abortLane n s = (s, 0x01) := by
  simp only [abortLane, h, if_true]; rfl

/-- LANE_ABORT ends the session of any other lane, empties its transmitter queue, and reports a session that was on (R43). -/
theorem abortLane_of_not_down {n : LaneId} {s : State} (h : (s.lane n).state ≠ .down) : abortLane n s = ({ s with
    lanes := s.lanes.set n { (s.lane n).ended with waiting := [] }
    store := s.store.freed (s.lane n).assembly
    notice := if (s.lane n).state = .active ∨ (s.lane n).state = .closing then
      s.notice.raise .laneClosed (laneBit n) s.synced else s.notice }, 0x00) := by
  simp only [abortLane, h, if_false, State.mapLane_endSession]
  by_cases session : (s.lane n).state = .active ∨ (s.lane n).state = .closing
  · have on : (s.lane n).inSession = true := by simpa [Lane.inSession] using session
    simp only [on, session, if_true]; rfl
  · have off : ¬(s.lane n).inSession = true := by simpa [Lane.inSession] using session
    simp only [off, session, if_false]; rfl

/-! ## The popped request does not matter to an action on a lane -/

theorem State.windowTested_popRequest (n : LaneId) (s : State) :
    s.popRequest.windowTested n = (s.windowTested n).popRequest := by
  unfold State.windowTested
  rw [State.lane_popRequest]
  split <;> rfl

theorem closeLane_popRequest (n : LaneId) (s : State) :
    closeLane n s.popRequest = ((closeLane n s).1.popRequest, (closeLane n s).2) := by
  cases h : (s.lane n).state with
  | active =>
    rw [closeLane_of_active h, closeLane_of_active (s := s.popRequest) h, State.enterClosing_eq, State.enterClosing_eq,
      ← State.windowTested_popRequest]
    rfl
  | probing =>
    rw [closeLane_of_probing h, closeLane_of_probing (s := s.popRequest) h, State.endSession_eq, State.endSession_eq]
    rfl
  | closing | down | failed =>
    have unopened : (s.lane n).state = .closing ∨ (s.lane n).state = .down ∨ (s.lane n).state = .failed := by simp [h]
    rw [closeLane_of_unopened unopened, closeLane_of_unopened (s := s.popRequest) unopened]

theorem abortLane_popRequest (n : LaneId) (s : State) :
    abortLane n s.popRequest = ((abortLane n s).1.popRequest, (abortLane n s).2) := by
  by_cases h : (s.lane n).state = .down
  · rw [abortLane_of_down h, abortLane_of_down (s := s.popRequest) h]
  · rw [abortLane_of_not_down h, abortLane_of_not_down (s := s.popRequest) h]
    rfl

/-- The order of the popping of the request and of actions that do not look at it does not matter (R161, R181). -/
theorem eachItem_popRequest {ι : Type} {act : ι → State → State × Byte}
    (h : ∀ i s, act i s.popRequest = ((act i s).1.popRequest, (act i s).2)) (items : List ι) (s : State) :
    eachItem act items s.popRequest = ((eachItem act items s).1.popRequest, (eachItem act items s).2) := by
  induction items generalizing s with
  | nil => rfl
  | cons i items ih => simp only [eachItem, h, ih]

/-! ## The requests -/

/-- A request over the lanes of a mask: refused for its mask, or one action on each named lane, lowest first (R39, R43, R181). -/
theorem State.request_eachLane {s : State} {r : Frame} {rest : List Frame} {mask kind : Byte}
    {one : LaneId → State → State × Byte} {act : List Byte → State → State × List Byte}
    (starts : Starts s r rest) (hkind : r.kind = kind) (hlen : bodyLengthOk r = true) (hbody : r.body = [mask])
    (bad : ∀ s, laneMaskArg [mask] = none → act [mask] s = (s, [0x20]))
    (good : ∀ s lanes, laneMaskArg [mask] = some lanes →
      act [mask] s = ((eachItem one lanes s).1, 0x00 :: (eachItem one lanes s).2))
    (pop : ∀ n s, one n s.popRequest = ((one n s).1.popRequest, (one n s).2))
    (side : ∀ n t, LaneSide s t → LaneSide s (one n t).1) :
    s.request kind act = .next (
      if mask = 0 ∨ 16 ≤ mask.toNat then s.replied r [0x20]
      else { (eachItem one (maskLanes mask) s).1 with
        link := s.link.answered r (0x00 :: (eachItem one (maskLanes mask) s).2) }) := by
  split
  next refused =>
    exact State.request_of_reply starts hkind hlen (hbody ▸ bad _ (laneMaskArg_of_not_ok refused))
  next ok =>
    have ok : mask ≠ 0 ∧ mask.toNat < 16 := by simpa only [not_or, not_le] using ok
    have hact := good s.popRequest _ (laneMaskArg_of_ok ok)
    rw [eachItem_popRequest pop, ← hbody] at hact
    have hlink : (eachItem one (maskLanes mask) s).1.link = s.link := (LaneSide.eachLane side (.refl s)).link
    rw [State.request_of_act starts hkind hlen hact (by simp only [State.popRequest, hlink])]
    rfl

theorem laneCloseAct_of_bad_argument {body : List Byte} {s : State} (h : laneMaskArg body = none) :
    laneCloseAct body s = (s, [0x20]) := by
  simp only [laneCloseAct, h]; rfl

theorem laneCloseAct_of_lanes {body : List Byte} {lanes : List LaneId} {s : State} (h : laneMaskArg body = some lanes) :
    laneCloseAct body s = ((eachItem closeLane lanes s).1, 0x00 :: (eachItem closeLane lanes s).2) := by
  simp only [laneCloseAct, h]; rfl

theorem laneAbortAct_of_bad_argument {body : List Byte} {s : State} (h : laneMaskArg body = none) :
    laneAbortAct body s = (s, [0x20]) := by
  simp only [laneAbortAct, h]; rfl

theorem laneAbortAct_of_lanes {body : List Byte} {lanes : List LaneId} {s : State} (h : laneMaskArg body = some lanes) :
    laneAbortAct body s = ((eachItem abortLane lanes s).1, 0x00 :: (eachItem abortLane lanes s).2) := by
  simp only [laneAbortAct, h]; rfl

/-- Settles O18: the requests are one action per named lane, and each action is a case of the lane's state. -/
theorem laneCloseAndAbortActPerLane : Obligations.LaneCloseAndAbortActPerLane := by
  unfold Obligations.LaneCloseAndAbortActPerLane
  refine ⟨fun mask => ⟨maskLanes_pairwise_lt mask, fun n => mem_maskLanes⟩, fun s r rest mask starts hbody => ⟨?_, ?_⟩,
    fun one n rest s => ⟨rfl, rfl⟩, fun s n => ?_, fun s n => ?_⟩
  · intro hkind
    exact State.request_eachLane starts hkind (by simp [bodyLengthOk, hkind, hbody, requestLength]) hbody
      (fun _ => laneCloseAct_of_bad_argument) (fun _ _ => laneCloseAct_of_lanes) closeLane_popRequest
      (fun _ _ => LaneSide.closeLane)
  · intro hkind
    exact State.request_eachLane starts hkind (by simp [bodyLengthOk, hkind, hbody, requestLength]) hbody
      (fun _ => laneAbortAct_of_bad_argument) (fun _ _ => laneAbortAct_of_lanes) abortLane_popRequest
      (fun _ _ => LaneSide.abortLane)
  · cases h : (s.lane n).state with
    | active =>
      rw [closeLane_of_active h, State.enterClosing_eq]
      simp only [h]
    | probing =>
      rw [closeLane_of_probing h, State.endSession_eq]
      simp only [h]
    | closing | down | failed =>
      rw [closeLane_of_unopened (n := n) (s := s) (by simp [h])]
      simp only [h]
  · by_cases h : (s.lane n).state = .down
    · simp only [h, if_true]; exact abortLane_of_down h
    · simp only [h, if_false]; exact abortLane_of_not_down h

end Sys2Proof.Machine
end

section
/-! Lane sessions: the probe exchange (R33 to R36) and the ends of a session (R37, R38, R41, R42), with the obligations about
them (O19, O22). -/
namespace Sys2Proof.Machine

theorem expired_some {d now : Nat} (h : d ≤ now) : expired (some d) now = true := by
  simp only [expired, h, decide_true]

section
variable {s : State} {n : LaneId}

/-! ## The frames of a session, as a hunting receiver takes them -/

theorem State.laneGoodFrame_echo {index : Byte} {pattern : List Byte} {next : Half}
    (hunting : (s.lane n).receiver = .hunting) (probing : (s.lane n).state = .probing) (hlen : pattern.length = 8) :
    s.laneGoodFrame n LaneKind.echo (index :: pattern ++ be16 next) = s.probeEcho n index pattern next := by
  match pattern, hlen with
  | [p0, p1, p2, p3, p4, p5, p6, p7], _ =>
    simp only [State.laneGoodFrame, hunting, probing, be16, List.cons_append, List.nil_append, half_be16, ne_eq,
      not_true_eq_false, if_true, if_false]

theorem State.laneGoodFrame_close (hunting : (s.lane n).receiver = .hunting) (session : (s.lane n).inSession = true) :
    s.laneGoodFrame n LaneKind.close [] = s.closeFromSource n := by
  simp [State.laneGoodFrame, hunting, session, LaneKind.close, LaneKind.echo, LaneKind.keepalive]

theorem State.laneGoodFrame_closeAck (hunting : (s.lane n).receiver = .hunting) (closing : (s.lane n).state = .closing) :
    s.laneGoodFrame n LaneKind.closeAck [] = (s.mapLane n (Lane.goodFrame s.clock)).closingEnd n := by
  simp [State.laneGoodFrame, hunting, closing, LaneKind.closeAck, LaneKind.close, LaneKind.echo, LaneKind.keepalive]

/-- A good frame on lane n (R29, R37). -/
theorem State.mapLane_goodFrame : s.mapLane n (Lane.goodFrame s.clock) = s.setLane n ((s.lane n).heard s.clock) := by
  rw [State.mapLane, Lane.goodFrame_eq]

/-! ## The probe exchange -/

/-- Lane n, which has heard a good frame, has completed its probe exchange (R35). -/
theorem State.activate_heard (next : Half) :
    (s.mapLane n (Lane.goodFrame s.clock)).activate n next =
      let l := (s.lane n).heard s.clock
      { s with
        lanes := s.lanes.set n { l with
          state := .active
          e := next
          limit := next - 1
          lastSent := next - 1
          pendingMissing := 0
          timers := ⟨none, none, some (s.clock + 1000 * l.config.silenceTimeout), none, some (s.clock + 50000)⟩
          waiting := l.waiting.filter fun f => !f.isCredit && !f.isProbe }
        notice := s.notice.raise .laneUp (laneBit n) s.synced } := by
  rw [State.mapLane_goodFrame, State.activate, State.setLane_clock, State.mapLane_setLane]
  rfl

/-- An ECHO in PROBING: the three ways it can go on (R33, R34, R35). -/
theorem State.probeEcho_eq (index : Byte) (pattern : List Byte) (next : Half) : s.probeEcho n index pattern next =
    let l := (s.lane n).heard s.clock
    if l.timers.probeInterval ≠ none ∧ index.toNat = l.awaited.val ∧ pattern = probePattern l.awaited then
      if l.awaited = 3 then (s.mapLane n (Lane.goodFrame s.clock)).activate n next
      else s.setLane n (({ l with
        awaited := l.awaited + 1
        timers := { l.timers with probeInterval := none } } : Lane).dueProbe (l.awaited + 1))
    else s.setLane n l.restartProbe := by
  simp only [State.probeEcho, State.mapLane_goodFrame, State.mapLane_setLane, State.lane_setLane, if_true,
    Option.isSome_iff_ne_none]

/-! ## The timers -/

theorem exec_probeIntervalExpiry {d : Nat} (running : s.running = true) (probing : (s.lane n).state = .probing)
    (deadline : (s.lane n).timers.probeInterval = some d) (reached : d ≤ s.clock) :
    exec (.probeIntervalExpiry n) s = .next (s.mapLane n Lane.restartProbe) := by
  refine (State.event_next running _).trans (congrArg _ (if_pos ⟨probing, ?_⟩))
  rw [deadline, expired_some reached]

theorem exec_probeWindowExpiry {d : Nat} (running : s.running = true) (probing : (s.lane n).state = .probing)
    (deadline : (s.lane n).timers.probeWindow = some d) (reached : d ≤ s.clock) :
    exec (.probeWindowExpiry n) s = .next { s with
      lanes := s.lanes.set n { s.lane n with
        state := .failed
        pendingMissing := 0
        timers := ⟨none, none, none, none, none⟩
        waiting := (s.lane n).waiting.filter fun f => !f.isCredit && !f.isProbe }
      notice := s.notice.raise .laneFailed (laneBit n) s.synced } := by
  refine (State.event_next running _).trans (congrArg _ (if_pos ⟨probing, ?_⟩))
  rw [deadline, expired_some reached]

theorem exec_silenceExpiry {d : Nat} (running : s.running = true) (session : (s.lane n).inSession = true)
    (deadline : (s.lane n).timers.silence = some d) (reached : d ≤ s.clock) :
    exec (.silenceExpiry n) s = .next (s.loseLane n) := by
  refine (State.event_next running _).trans (congrArg _ (if_pos ⟨session, ?_⟩))
  rw [deadline, expired_some reached]

theorem exec_closeTimerExpiry {d : Nat} (running : s.running = true) (closing : (s.lane n).state = .closing)
    (deadline : (s.lane n).timers.close = some d) (reached : d ≤ s.clock) :
    exec (.closeTimerExpiry n) s = .next (s.closingEnd n) := by
  refine (State.event_next running _).trans (congrArg _ (if_pos ⟨closing, ?_⟩))
  rw [deadline, expired_some reached]

end

/-- Settles O19: an ECHO that matches advances or completes the exchange, any other restarts it; each timer's expiry is its
effect. -/
theorem probeExchangeAdvancesOrRestarts : Obligations.ProbeExchangeAdvancesOrRestarts := by
  unfold Obligations.ProbeExchangeAdvancesOrRestarts
  refine ⟨fun s n index pattern next hears probing hlen => ?_, fun s n d running probing reached => ⟨?_, ?_⟩⟩
  · obtain ⟨running, hunting⟩ := hears
    refine (State.event_next running _).trans (congrArg _ ?_)
    rw [State.laneGoodFrame_echo hunting probing hlen, State.probeEcho_eq, State.activate_heard]
    rfl
  · exact fun deadline => exec_probeIntervalExpiry running probing deadline reached
  · exact fun deadline => exec_probeWindowExpiry running probing deadline reached

/-- Settles O22: the silence timer loses the lane; CLOSE_ACK, the close timer and the source's CLOSE end its session. -/
theorem sessionsEndByLossOrClose : Obligations.SessionsEndByLossOrClose := by
  unfold Obligations.SessionsEndByLossOrClose
  refine ⟨fun s n d running session deadline reached => ?_, fun s n running closing => ⟨fun hunting => ?_, ?_⟩,
    fun s n hears session => ?_⟩
  · rw [exec_silenceExpiry running session deadline reached, State.loseLane_eq]
  · refine (State.event_next running _).trans (congrArg _ ?_)
    rw [State.laneGoodFrame_closeAck hunting closing, State.closingEnd_eq, State.mapLane_goodFrame]
    rfl
  · intro d deadline reached
    rw [exec_closeTimerExpiry running closing deadline reached, State.closingEnd_eq]
  · obtain ⟨running, hunting⟩ := hears
    refine (State.event_next running _).trans (congrArg _ ?_)
    rw [State.laneGoodFrame_close hunting session, State.closeFromSource, State.closingEnd_eq, State.mapLane,
      Lane.goodFrame_eq]
    rfl

end Sys2Proof.Machine
end

section
/-! Record admission: a KEEPALIVE against the window (R63), with the obligation about it (O24). -/
namespace Sys2Proof.Machine

section
variable {s : State} {n : LaneId}

theorem State.laneGoodFrame_keepalive {next : Half} (hunting : (s.lane n).receiver = .hunting)
    (session : (s.lane n).inSession = true) :
    s.laneGoodFrame n LaneKind.keepalive (be16 next) = s.takeKeepalive n next := by
  simp [State.laneGoodFrame, hunting, session, be16, half_be16, LaneKind.keepalive, LaneKind.echo]

/-- A lane whose window moves to a later sequence number inside it has consumed the d numbers before that (R52, R63, R66). -/
def Lane.windowAdvanced (next : Half) (now : Nat) (l : Lane) : Lane :=
  let d := (next - l.e).toNat
  ({ l with
    e := next
    pendingMissing := min (l.pendingMissing + d) 65535
    counters := { l.counters with missingTotal := bumpBy d l.counters.missingTotal } } : Lane).testCreditAfterE now

/-- A KEEPALIVE in a session: the three ways it can go on (R63). -/
theorem State.takeKeepalive_eq (next : Half) : s.takeKeepalive n next =
    let l := (s.lane n).heard s.clock
    let d := (next - l.e).toNat
    if 1 ≤ d ∧ d ≤ l.reservation then (s.setLane n (l.windowAdvanced next s.clock)).windowTested n
    else if d = 0 ∨ 32768 ≤ d then s.setLane n l
    else s.setLane n { l with counters := { l.counters with overruns := bump l.counters.overruns } } := by
  simp only [State.takeKeepalive, State.mapLane_goodFrame, State.mapLane_setLane, State.lane_setLane, if_true,
    State.checkWindow_eq]
  rfl

theorem exec_keepalive {next : Half} (hears : Hears s n) (session : (s.lane n).inSession = true) :
    exec (.keepalive n next) s = .next (s.takeKeepalive n next) := by
  obtain ⟨running, hunting⟩ := hears
  exact (State.event_next running _).trans (congrArg _ (State.laneGoodFrame_keepalive hunting session))

end

/-- Settles O24: the frame is taken by the place of its number: at e, inside the window, behind e, or beyond the window. -/
theorem keepaliveMovesTheWindow : Obligations.KeepaliveMovesTheWindow := by
  unfold Obligations.KeepaliveMovesTheWindow
  intro s n next hears session l d
  rw [exec_keepalive hears session, State.takeKeepalive_eq]
  refine congrArg _ ?_
  change (if 1 ≤ d ∧ d ≤ l.reservation then _ else if d = 0 ∨ 32768 ≤ d then _ else _) = _
  by_cases liveness : d = 0 ∨ (32768 ≤ d ∧ l.reservation < d)
  · have outside : ¬(1 ≤ d ∧ d ≤ l.reservation) := by omega
    have behind : d = 0 ∨ 32768 ≤ d := by omega
    rw [if_neg outside, if_pos behind, if_pos liveness]
    rfl
  · by_cases within : d ≤ l.reservation
    · have inside : 1 ≤ d ∧ d ≤ l.reservation := by omega
      rw [if_pos inside, if_neg liveness, if_pos within]
      rfl
    · have outside : ¬(1 ≤ d ∧ d ≤ l.reservation) := by omega
      have ahead : ¬(d = 0 ∨ 32768 ≤ d) := by omega
      rw [if_neg outside, if_neg ahead, if_neg liveness, if_neg within]
      rfl

end Sys2Proof.Machine
end

section
/-! Rules (R73, R74): what a rule reads, field by field, how the operators compare, and the obligation about both (O29). -/
namespace Sys2Proof.Machine

section
variable {r : Record} {e : RuleEntry}

/-! ## The fields (R73) -/

theorem ruleField_lane (h : e.field = 0) : ruleField r e = some (BitVec.ofNat 16 r.lane.val) := by
  simp [ruleField, h]

theorem ruleField_channel (h : e.field = 1) : ruleField r e = some r.channel := by
  simp [ruleField, h]

theorem ruleField_kind (h : e.field = 2) : ruleField r e = some (r.kind.setWidth 16) := by
  simp [ruleField, h, wide]

theorem ruleField_length (h : e.field = 3) : ruleField r e = some (BitVec.ofNat 16 r.payloadLength) := by
  simp [ruleField, h]

/-- BYTE is absent behind the end of the payload (R73). -/
theorem ruleField_byte (h : e.field = 4) : ruleField r e =
    if e.offset.toNat < r.payloadLength then some ((r.payload.getD e.offset.toNat 0).setWidth 16) else none := by
  simp [ruleField, h, wide]

/-- WORD is absent unless both its bytes lie in the payload (R73). -/
theorem ruleField_word (h : e.field = 5) : ruleField r e =
    if e.offset.toNat + 2 ≤ r.payloadLength then
      some (r.payload.getD e.offset.toNat 0 ++ r.payload.getD (e.offset.toNat + 1) 0)
    else none := by
  simp [ruleField, h, half]

theorem ruleField_missing (h : e.field = 6) : ruleField r e = some (BitVec.ofNat 16 (r.missing.getD 0)) := by
  simp [ruleField, h]

/-! ## The operators (R74) -/

/-- The codes that name an operator, and the comparison each makes (R74). -/
theorem ruleCompare_iff {operator : Byte} {m value : Half} (named : operator.toNat ≤ 4) :
    ruleCompare operator m value = true ↔
      if operator = 0 then m = value
      else if operator = 1 then m ≠ value
      else if operator = 2 then value.toNat < m.toNat
      else if operator = 3 then m.toNat < value.toNat
      else m ≠ 0 := by
  have codes : operator = 0 ∨ operator = 1 ∨ operator = 2 ∨ operator = 3 ∨ operator = 4 := by bv_omega
  obtain rfl | rfl | rfl | rfl | rfl := codes <;> simp [ruleCompare]

/-- A rule is true when its field is there and the masked quantity compares (R74). -/
theorem ruleTrue_iff :
    ruleTrue r e = true ↔ ∃ x, ruleField r e = some x ∧ ruleCompare e.operator (x &&& e.mask) e.value = true := by
  cases h : ruleField r e <;> simp [ruleTrue, h]

end

/-- Settles O29: one case per field code, and one per operator code on the masked quantity. -/
theorem ruleTruth : Obligations.RuleTruth := by
  unfold Obligations.RuleTruth
  refine ⟨fun r e named => ?_, fun r e named => ?_⟩
  · have codes : e.field = 0 ∨ e.field = 1 ∨ e.field = 2 ∨ e.field = 3 ∨ e.field = 4 ∨ e.field = 5 ∨ e.field = 6 := by
      bv_omega
    obtain h | h | h | h | h | h | h := codes
    · rw [ruleField_lane h]; simp [h]
    · rw [ruleField_channel h]; simp [h]
    · rw [ruleField_kind h]; simp [h]
    · rw [ruleField_length h]; simp [h]
    · rw [ruleField_byte h]; simp [h]
    · rw [ruleField_word h]; simp [h]
    · rw [ruleField_missing h]
      cases r.missing <;> simp [h]
  · simp only [ruleTrue_iff, ruleCompare_iff named]

end Sys2Proof.Machine
end

section
/-! The end of a walk (R70, R71, R77 to R80): where its outcome goes, how the next walk begins, and the obligation about both
(O31). -/
namespace Sys2Proof.Machine

section
variable {s : State}

/-- The Queue Manager admits a record without a look at the Classifier (R99 to R101). -/
theorem State.offer_withClassifier (q : QueueId) (spill : Bool) (r : Record) (c : Classifier) :
    ({ s with classifier := c } : State).offer q spill r = { s.offer q spill r with classifier := c } := by
  have same : ({ s with classifier := c } : State).queue q = s.queue q := rfl
  unfold State.offer
  rw [same]
  dsimp only
  split
  · rfl
  · cases (s.queue q).config.policy with
    | refuseNew => rfl
    | dropOldest => cases (s.queue q).list <;> rfl

/-- Where an outcome goes (R78 to R80); of the Classifier it takes the generation and changes a counter. -/
theorem State.handOn_withClassifier (c : Classifier) (d : Decision) (r : Record) :
    ({ s with classifier := c } : State).handOn d r =
      let k := c.counters
      match d with
      | .discard => { s with
        classifier := { c with counters := { k with discards := bump k.discards } }
        store := s.store.free r }
      | .deliver q label =>
        if (s.queue q).config.enabled then
          { s.offer q false { r with generation := some c.generation, label := if label = 0 then none else some label } with
            classifier := { c with counters := { k with handedOver := bump k.handedOver } } }
        else { s with
          classifier := { c with counters := { k with noQueue := bump k.noQueue } }
          store := s.store.free r
          queues := s.queues.set q { s.queue q with
            counters := { (s.queue q).counters with refusedDisabled := bump (s.queue q).counters.refusedDisabled } } } := by
  cases d with
  | discard => rfl
  | deliver q label =>
    change (if (s.queue q).config.enabled then _ else _) = if (s.queue q).config.enabled then _ else _
    split
    · exact State.offer_withClassifier (s := s) q false _ _
    · rfl

/-- The pending-commit flag is clear, so no commit is taken (R88). -/
theorem State.takeCommit_of_settled (settled : s.classifier.pendingCommit = false) : s.takeCommit = s := by
  simp only [State.takeCommit, settled, Bool.false_eq_true, if_false]

/-- The hand-over of an outcome changes nothing of the Classifier but its counters (R78 to R80). -/
theorem State.handOn_classifier (d : Decision) (r : Record) :
    (s.handOn d r).classifier = { s.classifier with counters := (s.handOn d r).classifier.counters } := by
  rw [State.handOn_withClassifier (s := s) s.classifier]
  cases d with
  | discard => rfl
  | deliver q label => dsimp only; split <;> rfl

theorem State.handOn_clock (d : Decision) (r : Record) : (s.handOn d r).clock = s.clock :=
  State.handOn_keeps (P := fun t => t.clock = s.clock) (fun _ _ h => h) (fun _ _ side h => side.clock.trans h) d r rfl

end

/-! ## The Classifier between two walks -/

namespace Classifier

/-- The next walk begins as it would with other counters (R70). -/
theorem beginWalk_withCounters (c : Classifier) (k : ClassifierCounters) (now : Nat) :
    ({ c with counters := k } : Classifier).beginWalk now = { c.beginWalk now with counters := k } := by
  unfold beginWalk
  cases c.intake <;> rfl

/-- A record joins the intake list, and an IDLE Classifier takes the head of the longer list (R69, R70). -/
theorem join_eq (c : Classifier) (now : Nat) (r : Record) : c.join now r =
    match c.walk, c.intake with
    | some _, intake => { c with intake := intake ++ [r] }
    | none, [] => { c with walk := some ⟨r, now⟩ }
    | none, x :: rest => { c with intake := rest ++ [r], walk := some ⟨x, now⟩ } := by
  obtain ⟨intake, walk, _, _, _, _, _, _⟩ := c
  cases walk <;> cases intake <;> rfl

theorem countDecision_intake (rule : Option Nat) (c : Classifier) : (c.countDecision rule).intake = c.intake := by
  cases rule <;> rfl

theorem countDecision_pendingCommit (rule : Option Nat) (c : Classifier) :
    (c.countDecision rule).pendingCommit = c.pendingCommit := by
  cases rule <;> rfl

/-- The Classifier when a walk has been decided by the rule given, or by none, and the next walk has begun (R70, R77). -/
def decided (rule : Option Nat) (now : Nat) (c : Classifier) : Classifier :=
  ({ c.countDecision rule with walk := none } : Classifier).beginWalk now

theorem decided_eq (rule : Option Nat) (now : Nat) (c : Classifier) : c.decided rule now =
    match c.intake with
    | [] => { c.countDecision rule with walk := none }
    | r :: rest => { c.countDecision rule with intake := rest, walk := some ⟨r, now⟩ } := by
  cases h : c.intake <;> simp only [decided, beginWalk, countDecision_intake, h]

theorem decided_counters (rule : Option Nat) (now : Nat) (c : Classifier) :
    (c.decided rule now).counters = (c.countDecision rule).counters := by
  rw [decided_eq]
  cases c.intake <;> rfl

end Classifier

/-- While no commit is pending, the end of a walk is its hand-over, with the next walk begun (R71, R77). -/
theorem State.endWalk_of_settled {s : State} {w : Walk} {rule : Option Nat} {d : Decision}
    (settled : s.classifier.pendingCommit = false) (judged : s.classifier.active.judge w.record = (rule, d)) :
    let t := ({ s with classifier := { s.classifier.countDecision rule with walk := none } } : State).handOn d w.record
    s.endWalk w =
      { t with classifier := { s.classifier.decided rule s.clock with counters := t.classifier.counters } } := by
  intro t
  have stillSettled : t.classifier.pendingCommit = false := by
    rw [State.handOn_classifier]
    exact (Classifier.countDecision_pendingCommit _ _).trans settled
  have clock : t.clock = s.clock := State.handOn_clock _ _
  have ended : s.endWalk w = { t.takeCommit with classifier := t.takeCommit.classifier.beginWalk t.takeCommit.clock } := by
    unfold State.endWalk
    rw [judged]
  rw [ended, State.takeCommit_of_settled stillSettled, clock, State.handOn_classifier, Classifier.beginWalk_withCounters,
    ← clock]
  rfl

theorem exec_walkEnd {s : State} {w : Walk} (running : s.running = true) (walking : s.classifier.walk = some w) :
    exec .walkEnd s = .next (s.endWalk w) := by
  change execWalkEnd s = _
  simp only [execWalkEnd, State.event_next running, walking]

/-- Settles O31: the decision is counted, the outcome goes its way, and the next walk begins, in that order. -/
theorem walkEndHandsTheOutcomeOn : Obligations.WalkEndHandsTheOutcomeOn := by
  unfold Obligations.WalkEndHandsTheOutcomeOn
  refine ⟨?_, Classifier.join_eq⟩
  intro s w running walking settled judged k counted next
  have next_eq : next = s.classifier.decided judged.1 s.clock := (Classifier.decided_eq _ _ _).symm
  have counters : next.counters = (s.classifier.countDecision judged.1).counters := by
    rw [next_eq, Classifier.decided_counters]
  rw [exec_walkEnd running walking, State.endWalk_of_settled settled (rule := judged.1) (d := judged.2) rfl,
    State.handOn_withClassifier, ← next_eq, counters]
  clear_value judged
  obtain ⟨rule, d⟩ := judged
  cases d with
  | discard => cases rule <;> rfl
  | deliver q label => cases rule <;> dsimp only <;> split <;> rfl

end Sys2Proof.Machine
end

section
/-! The rule requests (R82 to R85, R189): what each does to the staging bank and answers, and the obligation about them (O33). -/
namespace Sys2Proof.Machine

section
variable {s : State}

/-! ## RULE_SET (R82) -/

theorem ruleSetAct_of_bad_index {index : Byte} {entry : List Byte} (h : ¬index.toNat < 32) :
    ruleSetAct (index :: entry) s = (s, [0x20]) := by
  simp only [ruleSetAct, ruleSetArg, h, dite_false]; rfl

theorem ruleSetAct_of_reserved_bits {index : Byte} {entry : List Byte} (hindex : index.toNat < 32)
    (h : ruleEntryArg entry = none) : ruleSetAct (index :: entry) s = (s, [0x20]) := by
  simp only [ruleSetAct, ruleSetArg, hindex, dite_true, h]; rfl

theorem ruleSetAct_of_entry {index : Byte} {entry : List Byte} {e : RuleEntry} (hindex : index.toNat < 32)
    (h : ruleEntryArg entry = some e) : ruleSetAct (index :: entry) s = ({ s with classifier := { s.classifier with
      staging := { s.classifier.staging with rules := s.classifier.staging.rules.set index.toNat e } } }, [0x00]) := by
  simp only [ruleSetAct, ruleSetArg, hindex, dite_true, h]; rfl

/-! ## DEFAULT_SET and RULES_REVERT (R83, R85) -/

theorem defaultSetAct_eq (action queue : Byte) :
    defaultSetAct [action, queue] s = ({ s with classifier := { s.classifier with
      staging := { s.classifier.staging with defaultAction := action, defaultQueue := queue } } }, [0x00]) := rfl

theorem rulesRevertAct_eq (body : List Byte) :
    rulesRevertAct body s =
      ({ s with classifier := { s.classifier with staging := s.classifier.active } }, [0x00]) := rfl

/-! ## RULE_GET (R84, R189) -/

/-- Two flags in one byte, the bits joined as the model does and added as the layout says (R189). -/
theorem flagByte_or_shiftLeft (a b : Bool) : flagByte a ||| (flagByte b <<< 1) = flagByte a + 2 * flagByte b := by
  revert a b; decide

theorem RuleEntry.bytes_eq (e : RuleEntry) : e.bytes =
    [flagByte e.enabled + 2 * flagByte e.chain, e.field, e.offset, e.operator] ++ be16 e.mask ++ be16 e.value ++
      [e.action, e.queue, e.label] := by
  rw [← flagByte_or_shiftLeft]; rfl

theorem ruleGetAct_of_bad_argument {bank index : Byte} (h : 1 < bank.toNat ∨ 32 < index.toNat) :
    ruleGetAct [bank, index] s = (s, [0x20]) := by
  have refused : ¬(bank.toNat ≤ 1 ∧ index.toNat ≤ 32) := by omega
  simp only [ruleGetAct, ruleGetArg, refused, if_false]; rfl

theorem ruleGetAct_of_entry {bank index : Byte} (h : ¬(1 < bank.toNat ∨ 32 < index.toNat)) :
    ruleGetAct [bank, index] s = (s, 0x00 :: be16 s.classifier.generation ++
      (if bank = 1 then s.classifier.active else s.classifier.staging).entryBytes index.toNat) := by
  have taken : bank.toNat ≤ 1 ∧ index.toNat ≤ 32 := by omega
  simp only [ruleGetAct, ruleGetArg, taken, and_self, if_true, decide_eq_true_eq]; rfl

end

/-- Settles O33: each request is its argument check and one write of the staging bank, or one answer. -/
theorem stagingBankIsWrittenAndRead : Obligations.StagingBankIsWrittenAndRead := by
  unfold Obligations.StagingBankIsWrittenAndRead
  refine ⟨fun s r rest starts => ⟨?_, ?_, ?_⟩, ?_⟩
  · intro index flags field offset operator m1 m0 v1 v0 action queue label hkind hbody
    have hlen : bodyLengthOk r = true := by simp [bodyLengthOk, hkind, hbody, requestLength]
    split
    next hindex =>
      split
      next reserved =>
        have arg : ruleEntryArg [flags, field, offset, operator, m1, m0, v1, v0, action, queue, label] = none :=
          if_neg reserved.not_gt
        exact State.request_of_reply starts hkind hlen (hbody ▸ ruleSetAct_of_reserved_bits hindex arg)
      next fits =>
        have arg : ruleEntryArg [flags, field, offset, operator, m1, m0, v1, v0, action, queue, label] = some
            ⟨flags.getLsbD 0, flags.getLsbD 1, field, offset, operator, m1 ++ m0, v1 ++ v0, action, queue, label⟩ :=
          if_pos (Nat.not_le.mp fits)
        have act := ruleSetAct_of_entry (s := s.popRequest) hindex arg
        rw [← hbody] at act
        exact State.request_of_act starts hkind hlen act rfl
    next hindex => exact State.request_of_reply starts hkind hlen (hbody ▸ ruleSetAct_of_bad_index hindex)
  · intro action queue hkind hbody
    have hlen : bodyLengthOk r = true := by simp [bodyLengthOk, hkind, hbody, requestLength]
    have act := defaultSetAct_eq (s := s.popRequest) action queue
    rw [← hbody] at act
    exact State.request_of_act starts hkind hlen act rfl
  · intro hkind hbody
    have hlen : bodyLengthOk r = true := by simp [bodyLengthOk, hkind, hbody, requestLength]
    exact State.request_of_act starts hkind hlen (rulesRevertAct_eq r.body) rfl
  · intro s r rest bank index starts hkind hbody b
    have hlen : bodyLengthOk r = true := by simp [bodyLengthOk, hkind, hbody, requestLength]
    refine State.request_of_reply starts hkind hlen ?_
    rw [hbody]
    split
    next refused => exact ruleGetAct_of_bad_argument refused
    next taken =>
      simp only [ruleGetAct_of_entry taken, RuleBank.entryBytes, RuleEntry.bytes_eq]
      rfl

end Sys2Proof.Machine
end

section
/-! RULES_COMMIT (R86 to R89): which banks pass validation, the index of the first entry that does not, and the obligation about
both and about what the request then does (O34). -/
namespace Sys2Proof.Machine

/-! ## Validation (R86) -/

theorem actionValid_iff {action queue : Byte} :
    actionValid action queue = true ↔ (action = 1 ∧ queue.toNat ≤ 7) ∨ (action = 0 ∧ queue = 0) := by
  simp only [actionValid, Bool.or_eq_true, decide_eq_true_eq, Nat.lt_succ_iff]

theorem offsetValid_iff {field offset : Byte} : offsetValid field offset = true ↔
    if field = 4 then offset.toNat ≤ 239 else if field = 5 then offset.toNat ≤ 238 else offset = 0 := by
  unfold offsetValid
  split
  next code =>
    have byte : field = 4 := BitVec.eq_of_toNat_eq code
    simp [byte]
  next code =>
    have word : field = 5 := BitVec.eq_of_toNat_eq code
    simp [word]
  next notByte notWord =>
    have byte : field ≠ 4 := fun h => notByte (congrArg BitVec.toNat h)
    have word : field ≠ 5 := fun h => notWord (congrArg BitVec.toNat h)
    rw [if_neg byte, if_neg word, decide_eq_true_iff]

/-- What a rule entry needs at index i (R86). -/
theorem RuleEntry.valid_iff {i : Nat} {e : RuleEntry} : e.valid i = true ↔
    e.field.toNat ≤ 6 ∧
    (if e.field = 4 then e.offset.toNat ≤ 239 else if e.field = 5 then e.offset.toNat ≤ 238 else e.offset = 0) ∧
    e.operator.toNat ≤ 4 ∧ ((e.action = 1 ∧ e.queue.toNat ≤ 7) ∨ (e.action = 0 ∧ e.queue = 0)) ∧
    e.label.toNat ≤ 15 ∧ ¬(i = 31 ∧ e.chain = true) := by
  simp only [RuleEntry.valid, Bool.and_eq_true, decide_eq_true_eq, offsetValid_iff, actionValid_iff, Bool.not_eq_true',
    ← Bool.not_eq_true, and_assoc]

/-! ## The first entry that fails (R87) -/

/-- The search passes over the valid entries and stops at the first that fails. -/
theorem firstInvalidRule_eq_some {rules : List RuleEntry} {start i : Nat} (hi : i < rules.length)
    (bad : ¬rules[i].valid (start + i) = true) (first : ∀ j, (hj : j < i) → rules[j].valid (start + j) = true) :
    firstInvalidRule start rules = some (start + i) := by
  induction rules generalizing start i with
  | nil => exact absurd hi (Nat.not_lt_zero i)
  | cons e rest ih =>
    cases i with
    | zero => exact if_neg bad
    | succ i =>
      have later := ih (start := start + 1) (i := i) (Nat.lt_of_succ_lt_succ hi)
        (by simpa [Nat.add_assoc, Nat.add_comm 1] using bad)
        (fun j hj => by simpa [Nat.add_assoc, Nat.add_comm 1] using first (j + 1) (Nat.succ_lt_succ hj))
      calc firstInvalidRule start (e :: rest) = firstInvalidRule (start + 1) rest := if_pos (first 0 i.succ_pos)
        _ = some (start + (i + 1)) := by rw [later, Nat.add_assoc, Nat.add_comm 1]

theorem firstInvalidRule_eq_none {rules : List RuleEntry} {start : Nat}
    (valid : ∀ j, (hj : j < rules.length) → rules[j].valid (start + j) = true) : firstInvalidRule start rules = none := by
  induction rules generalizing start with
  | nil => rfl
  | cons e rest ih =>
    calc firstInvalidRule start (e :: rest) = firstInvalidRule (start + 1) rest := if_pos (valid 0 (Nat.succ_pos _))
      _ = none := ih fun j hj => by
        simpa [Nat.add_assoc, Nat.add_comm 1] using valid (j + 1) (Nat.succ_lt_succ hj)

namespace RuleBank
variable {b : RuleBank}

theorem firstInvalid_of_rule {i : Fin 32} (bad : ¬b.rules[i].valid i = true)
    (first : ∀ j < i, b.rules[j].valid j = true) : b.firstInvalid = some i.val := by
  have found : firstInvalidRule 0 b.rules.toList = some i.val := by
    have := firstInvalidRule_eq_some (rules := b.rules.toList) (start := 0) (i := i) (by simp) (by simpa using bad)
      (fun j hj => by simpa using first ⟨j, hj.trans i.isLt⟩ hj)
    simpa using this
  simp only [firstInvalid, found]

theorem firstInvalid_of_valid_rules (valid : ∀ i : Fin 32, b.rules[i].valid i = true) :
    b.firstInvalid = if actionValid b.defaultAction b.defaultQueue then none else some 32 := by
  have found : firstInvalidRule 0 b.rules.toList = none :=
    firstInvalidRule_eq_none fun j hj => by simpa using valid ⟨j, by simpa using hj⟩
  simp only [firstInvalid, found]

end RuleBank

/-! ## The request (R86 to R89) -/

section
variable {s : State} {r : Frame}

theorem State.commitRequest_of_invalid {i : Nat} (h : s.classifier.staging.firstInvalid = some i) :
    s.popRequest.commitRequest r = s.replied r [0x24, byteOf i] := by
  have h : s.popRequest.classifier.staging.firstInvalid = some i := h
  simp only [State.commitRequest, h]
  exact State.finish_eq r _ s _ rfl

theorem State.commitRequest_of_idle (h : s.classifier.staging.firstInvalid = none) (idle : s.classifier.walk = none) :
    s.popRequest.commitRequest r = { s.replied r (0x00 :: be16 (s.classifier.generation + 1)) with
      classifier := s.classifier.commit } := by
  have h : s.popRequest.classifier.staging.firstInvalid = none := h
  have idle : s.popRequest.classifier.walk = none := idle
  simp only [State.commitRequest, h, idle, Option.isSome_none, Bool.false_eq_true, if_false]
  exact State.finish_eq r _ s _ rfl

theorem State.commitRequest_of_walk (h : s.classifier.staging.firstInvalid = none) (walking : s.classifier.walk ≠ none) :
    s.popRequest.commitRequest r = { s with
      classifier := { s.classifier with pendingCommit := true }
      link := { s.link with requests := s.link.requests.tail, executing := some r } } := by
  have h : s.popRequest.classifier.staging.firstInvalid = none := h
  have walking : s.popRequest.classifier.walk.isSome = true := Option.isSome_iff_ne_none.mpr walking
  simp only [State.commitRequest, h, walking, if_true]
  rfl

end

/-- Settles O34: the search of R87 finds the first entry that fails R86, and its result and the walk in flight decide what the
request does. -/
theorem rulesCommitIsValidatedThenTaken : Obligations.RulesCommitIsValidatedThenTaken := by
  unfold Obligations.RulesCommitIsValidatedThenTaken
  refine ⟨?_, ?_⟩
  · intro b actionOk ok
    have ok_iff (i : Fin 32) : ok i ↔ b.rules[i].valid i = true := by
      rw [RuleEntry.valid_iff]
      simp only [ok, actionOk, Fin.ext_iff]
      rfl
    simp only [ok_iff]
    refine ⟨fun i bad first => RuleBank.firstInvalid_of_rule bad first, fun valid => ?_⟩
    rw [RuleBank.firstInvalid_of_valid_rules valid]
    exact if_congr actionValid_iff rfl rfl
  · intro s r rest starts hkind hbody
    have hlen : bodyLengthOk r = true := by simp [bodyLengthOk, hkind, hbody, requestLength]
    have executed : exec .rulesCommit s = .next (s.popRequest.commitRequest r) :=
      congrArg _ (State.withRequest_starts starts (decide_eq_true hkind) hlen)
    obtain ⟨-, -, -, -, -, hrest⟩ := starts
    rw [executed]
    cases h : s.classifier.staging.firstInvalid with
    | some i => rw [State.commitRequest_of_invalid h]
    | none =>
      dsimp only
      split
      next idle => rw [State.commitRequest_of_idle h idle]; rfl
      next walking => rw [State.commitRequest_of_walk h walking, hrest]; rfl

end Sys2Proof.Machine
end

section
/-! The queue requests (R105, R107, R108): what each reads of its body, does to the queue and answers, and the obligations about
QUEUE_CONFIG (O37), and about QUEUE_GET and QUEUE_PURGE (O38). -/
namespace Sys2Proof.Machine

/-! ## The arguments (R187) -/

theorem queueNumber_of_lt {b : Byte} (h : b.toNat < 8) : queueNumber b = some ⟨b.toNat, h⟩ := dif_pos h

theorem queueNumber_of_not_lt {b : Byte} (h : ¬b.toNat < 8) : queueNumber b = none := dif_neg h

theorem queueNumber_eq_some_iff {a b : Byte} (h : b.toNat < 8) : queueNumber a = some ⟨b.toNat, h⟩ ↔ a = b := by
  constructor
  · intro named
    unfold queueNumber at named
    split at named
    next =>
      have number := Option.some.inj named
      exact BitVec.eq_of_toNat_eq (Fin.mk.inj number)
    next => cases named
  · rintro rfl
    exact queueNumber_of_lt h

/-- The byte of NONE names no queue, so the two readings of a spill byte agree. -/
theorem spillArg_of_valid {b : Byte} (h : b.toNat ≤ 7 ∨ b = 0xFF) : spillArg b = some (queueNumber b) := by
  obtain named | rfl := h
  · have notNone : b ≠ 0xFF := by rintro rfl; exact absurd named (by decide)
    simp only [spillArg, notNone, if_false, queueNumber_of_lt (Nat.lt_succ_of_le named), Option.map_some]
  · rfl

theorem spillArg_of_invalid {b : Byte} (h : ¬(b.toNat ≤ 7 ∨ b = 0xFF)) : spillArg b = none := by
  obtain ⟨noQueue, notNone⟩ := not_or.mp h
  have noQueue : ¬b.toNat < 8 := fun lt => noQueue (Nat.le_of_lt_succ lt)
  simp only [spillArg, notNone, if_false, queueNumber_of_not_lt noQueue, Option.map_none]

theorem QueueConfig.inRange_iff (c : QueueConfig) : c.inRange = true ↔
    1 ≤ c.depthLimit ∧ c.depthLimit ≤ 1024 ∧ c.priority ≤ 3 ∧ c.leaseTime ≤ 65535 ∧ c.redeliveryLimit ≤ 15 ∧
    c.noticeThreshold ≤ 1024 ∧ c.noticeHold ≤ 65535 := by
  simp only [QueueConfig.inRange, Bool.and_eq_true, decide_eq_true_eq, and_assoc]

theorem nat16_le (hi lo : Byte) : nat16 hi lo ≤ 65535 := Nat.le_of_lt_succ (half hi lo).isLt

/-! ## QUEUE_CONFIG (R105) -/

/-- The due test after the writing of a queue reads what was written. -/
theorem State.evalDue_setQueue (s : State) (q : QueueId) (x : Queue) : (s.setQueue q x).evalDue q = { s with
    queues := s.queues.set q x
    notice := s.notice.evalDue q x.config x.list.length s.clock s.synced } := by
  simp only [State.evalDue, State.queue_setQueue_same]
  rfl

section
variable {body : List Byte} {q : QueueId} {c : QueueConfig} {s : State}

theorem queueConfigAct_of_bad_argument (h : queueConfigArg body = none) : queueConfigAct body s = (s, [0x20]) := by
  simp only [queueConfigAct, h]; rfl

theorem queueConfigAct_of_bad_state (h : queueConfigArg body = some (q, c))
    (refused : (c.enabled = false ∧ (s.queue q).charge ≠ 0) ∨ c.depthLimit < (s.queue q).charge) :
    queueConfigAct body s = (s, 0x21 :: be16Nat (s.queue q).charge) := by
  simp only [queueConfigAct, h, if_pos refused]; rfl

theorem queueConfigAct_of_taken (h : queueConfigArg body = some (q, c))
    (taken : ¬((c.enabled = false ∧ (s.queue q).charge ≠ 0) ∨ c.depthLimit < (s.queue q).charge)) :
    queueConfigAct body s = ({ s with
      queues := s.queues.set q { s.queue q with config := c }
      notice := s.notice.evalDue q c (s.queue q).list.length s.clock s.synced }, [0x00]) := by
  simp only [queueConfigAct, h, if_neg taken, State.evalDue_setQueue]; rfl

end

/-- Settles O37: the argument check decides between BAD_ARGUMENT and a configuration, and the queue's charge between BAD_STATE
and the writing of it. -/
theorem queueConfigSetsTheParameters : Obligations.QueueConfigSetsTheParameters := by
  unfold Obligations.QueueConfigSetsTheParameters
  intro s r rest queue flags d1 d0 priority l1 l0 redelivery spill t1 t0 h1 h0 starts hkind hbody valid
  have hlen : bodyLengthOk r = true := by simp [bodyLengthOk, hkind, hbody, requestLength]
  split
  next hq =>
    extract_lets q x c
    have arg : queueConfigArg r.body = if valid then some (q, c) else none := by
      rw [hbody]
      by_cases hspill : spill.toNat ≤ 7 ∨ spill = 0xFF
      · have check : (flags.toNat < 8 ∧ c.inRange = true ∧ queueNumber spill ≠ some q) ↔ valid := by
          have other : queueNumber spill ≠ some q ↔ spill ≠ queue := not_congr (queueNumber_eq_some_iff hq)
          simp only [QueueConfig.inRange_iff, other, valid, hspill, c, nat16_le, Nat.lt_succ_iff, true_and, and_true, and_assoc]
          tauto
        simp only [queueConfigArg, queueNumber_of_lt hq, spillArg_of_valid hspill]
        exact if_congr check rfl rfl
      · have refused : ¬valid := fun ⟨_, _, _, _, _, h, _⟩ => hspill h
        simp only [queueConfigArg, queueNumber_of_lt hq, spillArg_of_invalid hspill, if_neg refused]
    split
    next ok =>
      rw [if_pos ok] at arg
      split
      next refused => exact State.request_of_reply starts hkind hlen (queueConfigAct_of_bad_state arg refused)
      next taken => exact State.request_of_act starts hkind hlen (queueConfigAct_of_taken arg taken) rfl
    next refused =>
      rw [if_neg refused] at arg
      exact State.request_of_reply starts hkind hlen (queueConfigAct_of_bad_argument arg)
  next hq =>
    have arg : queueConfigArg r.body = none := by simp only [hbody, queueConfigArg, queueNumber_of_not_lt hq]
    exact State.request_of_reply starts hkind hlen (queueConfigAct_of_bad_argument arg)

/-! ## QUEUE_GET (R107, R187, R188) -/

/-- Three flags in one byte, the bits joined as the model does and added as the layout says (R187). -/
theorem flagByte_or_shiftLeft_or_shiftLeft (a b c : Bool) :
    flagByte a ||| (flagByte b <<< 1) ||| (flagByte c <<< 2) = flagByte a + 2 * flagByte b + 4 * flagByte c := by
  revert a b c; decide

theorem QueueConfig.bytes_eq (c : QueueConfig) : c.bytes =
    (flagByte c.enabled + 2 * flagByte (decide (c.policy = .dropOldest)) + 4 * flagByte (decide (c.expiryAction = .drop))) ::
      be16Nat c.depthLimit ++ [byteOf c.priority] ++ be16Nat c.leaseTime ++ [byteOf c.redeliveryLimit] ++
      [match c.spillQueue with | some t => byteOf t.val | none => 0xFF] ++ be16Nat c.noticeThreshold ++ be16Nat c.noticeHold := by
  rw [← flagByte_or_shiftLeft_or_shiftLeft]; rfl

theorem headBytes_eq (list : List Record) : headBytes list =
    match list with
    | [] => [0, 0, 0, 0, 0]
    | head :: _ => 1 :: be32 (head.admission.getD 0) := by
  cases list <;> rfl

section
variable {body : List Byte} {q : QueueId} {s : State}

theorem queueGetAct_of_bad_argument (h : queueArg body = none) : queueGetAct body s = (s, [0x20]) := by
  simp only [queueGetAct, h]; rfl

theorem queueGetAct_of_queue (h : queueArg body = some q) : queueGetAct body s =
    (s, 0x00 :: (s.queue q).config.bytes ++ be16Nat (s.queue q).list.length ++ be16Nat (s.queue q).charge ++
      be32 (s.queue q).admissionCounter ++ headBytes (s.queue q).list) := by
  simp only [queueGetAct, h]; rfl

end

/-! ## QUEUE_PURGE (R108) -/

/-- The store after the frees of a list of records: their descriptors and blocks together, rearmed when the last free reaches
the rearm level (R15, R17). -/
def Store.freedAll (rs : List Record) (st : Store) : Store := { st with
  freeDescriptors := st.freeDescriptors + rs.length
  freeBlocks := st.freeBlocks + (rs.map Record.blocks).sum
  armed := st.armed || decide (rs.length ≠ 0 ∧ rearmLevel st.watermark ≤ st.freeDescriptors + rs.length) }

theorem Store.freedAll_nil (st : Store) : st.freedAll [] = st := by simp [Store.freedAll]

/-- One free before the others: F only rises, so the rearm level is reached on the way exactly when it is reached at the end. -/
theorem Store.freedAll_free (r : Record) (rs : List Record) (st : Store) :
    (st.free r).freedAll rs = st.freedAll (r :: rs) := by
  have rearms (level f n : Nat) : (decide (level ≤ f + 1) || decide (n ≠ 0 ∧ level ≤ f + (n + 1))) =
      decide (n + 1 ≠ 0 ∧ level ≤ f + (n + 1)) := by
    rw [← Bool.decide_or, decide_eq_decide]
    omega
  simp only [Store.freedAll, Store.free, Bool.or_assoc, rearms, List.length_cons, List.map_cons, List.sum_cons, Nat.add_assoc,
    Nat.add_comm 1]

theorem State.freeAll_eq (rs : List Record) (s : State) : s.freeAll rs = { s with store := s.store.freedAll rs } := by
  induction rs generalizing s with
  | nil => rw [Store.freedAll_nil]; rfl
  | cons r rs ih =>
    calc s.freeAll (r :: rs) = (s.freeRecord r).freeAll rs := rfl
      _ = { s with store := (s.store.free r).freedAll rs } := ih _
      _ = { s with store := s.store.freedAll (r :: rs) } := by rw [Store.freedAll_free]

/-- A list, a charge and counters written one after another are one write of the queue. -/
theorem State.countQueue_setCharge_setList (s : State) (q : QueueId) (list : List Record) (charge : Nat)
    (f : QueueCounters → QueueCounters) : ((s.setList q list).setCharge q charge).countQueue q f =
      { s with
        queues := s.queues.set q { s.queue q with list := list, charge := charge, counters := f (s.queue q).counters }
        notice := s.notice.follow q (s.queue q).config (s.queue q).list.length list.length s.clock s.synced } := by
  simp only [State.countQueue, State.setCharge, State.setList, State.setQueue, State.queue, vector_set_same, Vector.set_set]
  rfl

section
variable {body : List Byte} {q : QueueId} {s : State}

theorem queuePurgeAct_of_bad_argument (h : queueArg body = none) : queuePurgeAct body s = (s, [0x20]) := by
  simp only [queuePurgeAct, h]; rfl

theorem queuePurgeAct_of_queue (h : queueArg body = some q) : queuePurgeAct body s =
    let x := s.queue q
    let n := x.list.length
    ({ s with
      store := s.store.freedAll x.list
      queues := s.queues.set q { x with
        list := [], charge := x.charge - n, counters := { x.counters with purged := bumpBy n x.counters.purged } }
      notice := s.notice.follow q x.config n 0 s.clock s.synced }, 0x00 :: be16Nat n) := by
  simp only [queuePurgeAct, h, State.countQueue_setCharge_setList, State.freeAll_eq]
  rfl

end

/-- Settles O38: each request is its argument check and one answer, and QUEUE_PURGE frees the list and writes the queue once. -/
theorem queueGetReadsAndPurgeFrees : Obligations.QueueGetReadsAndPurgeFrees := by
  unfold Obligations.QueueGetReadsAndPurgeFrees
  refine ⟨fun s r rest queue starts hkind hbody => ?_, fun s r rest queue starts hkind hbody => ?_⟩
  · have hlen : bodyLengthOk r = true := by simp [bodyLengthOk, hkind, hbody, requestLength]
    split
    next hq =>
      have arg : queueArg r.body = some ⟨queue.toNat, hq⟩ := hbody ▸ queueNumber_of_lt hq
      have reply := State.request_of_reply starts hkind hlen (queueGetAct_of_queue arg)
      rw [QueueConfig.bytes_eq, headBytes_eq] at reply
      exact reply
    next hq =>
      have arg : queueArg r.body = none := hbody ▸ queueNumber_of_not_lt hq
      exact State.request_of_reply starts hkind hlen (queueGetAct_of_bad_argument arg)
  · have hlen : bodyLengthOk r = true := by simp [bodyLengthOk, hkind, hbody, requestLength]
    split
    next hq =>
      have arg : queueArg r.body = some ⟨queue.toNat, hq⟩ := hbody ▸ queueNumber_of_lt hq
      exact State.request_of_act starts hkind hlen (queuePurgeAct_of_queue arg) rfl
    next hq =>
      have arg : queueArg r.body = none := hbody ▸ queueNumber_of_not_lt hq
      exact State.request_of_reply starts hkind hlen (queuePurgeAct_of_bad_argument arg)

end Sys2Proof.Machine
end

section
/-! Records that leave a queue's list and come back (R102, R104, R131, R132): each operation as one write of the queue, the
place by age, and the obligation about a record that comes back (O36). -/
namespace Sys2Proof.Machine

/-! ## One write of a queue -/

/-- A list and counters written one after another are one write of the queue, which the Notice Unit follows (R138). -/
theorem State.countQueue_setList (s : State) (q : QueueId) (list : List Record) (f : QueueCounters → QueueCounters) :
    (s.setList q list).countQueue q f = { s with
      queues := s.queues.set q { s.queue q with list := list, counters := f (s.queue q).counters }
      notice := s.notice.follow q (s.queue q).config (s.queue q).list.length list.length s.clock s.synced } := by
  simp only [State.countQueue, State.setList, State.setQueue, State.queue, vector_set_same, Vector.set_set]
  rfl

/-- A charge that falls and counters that change are one write of the queue. -/
theorem State.countQueue_chargeDown (s : State) (q : QueueId) (f : QueueCounters → QueueCounters) :
    (s.chargeDown q).countQueue q f = { s with
      queues := s.queues.set q { s.queue q with
        charge := (s.queue q).charge - 1, counters := f (s.queue q).counters } } := by
  simp only [State.countQueue, State.chargeDown, State.setCharge, State.setQueue, State.queue, vector_set_same, Vector.set_set]

/-- An outstanding record of q is dropped (R102, R132). -/
theorem State.dropRecord_eq (s : State) (q : QueueId) (r : Record) : s.dropRecord q r = { s with
    store := s.store.free r
    queues := s.queues.set q { s.queue q with
      charge := (s.queue q).charge - 1
      counters := { (s.queue q).counters with droppedExhausted := bump (s.queue q).counters.droppedExhausted } } } :=
  State.countQueue_chargeDown (s.freeRecord r) q _

/-! ## The place by age (R98, R104) -/

section
variable (age : Record → Nat) (r : Record) (list : List Record)

/-- The records of r's age or older that stand before the first younger one. -/
def olderPart : List Record := list.takeWhile fun y => decide (age r ≤ age y)

/-- The list from the first record younger than r on. -/
def youngerPart : List Record := list.dropWhile fun y => decide (age r ≤ age y)

theorem olderPart_append_youngerPart : olderPart age r list ++ youngerPart age r list = list :=
  List.takeWhile_append_dropWhile

/-- The insertion puts r between the two parts. -/
theorem insertByAge_eq : insertByAge age r list = olderPart age r list ++ r :: youngerPart age r list := by
  induction list with
  | nil => rfl
  | cons x rest ih =>
    by_cases younger : age x < age r
    · simp [insertByAge, olderPart, youngerPart, younger]
    · have older : age r ≤ age x := Nat.le_of_not_lt younger
      simpa [insertByAge, olderPart, youngerPart, younger, older] using ih

theorem length_insertByAge : (insertByAge age r list).length = list.length + 1 := by
  rw [insertByAge_eq]
  conv_rhs => rw [← olderPart_append_youngerPart age r list]
  simp only [List.length_append, List.length_cons, Nat.add_assoc]

variable {age r list}

theorem le_age_of_mem_olderPart {y : Record} (h : y ∈ olderPart age r list) : age r ≤ age y :=
  of_decide_eq_true (List.mem_takeWhile_imp (p := fun y => decide (age r ≤ age y)) h)

theorem age_head_youngerPart_lt {y : Record} (h : y ∈ (youngerPart age r list).head?) : age y < age r := by
  have notOlder := List.head?_dropWhile_not (fun y => decide (age r ≤ age y)) list
  rw [show (list.dropWhile _).head? = some y from h] at notOlder
  exact Nat.lt_of_not_le (of_decide_eq_false notOlder)

/-- In a list in descending age every record of the second part is younger than r, not its first alone. -/
theorem age_lt_of_mem_youngerPart (sorted : list.Pairwise fun a b => age b < age a) {y : Record}
    (h : y ∈ youngerPart age r list) : age y < age r := by
  have sorted : (youngerPart age r list).Pairwise fun a b => age b < age a :=
    sorted.sublist (List.dropWhile_sublist _)
  cases parts : youngerPart age r list with
  | nil => simp [parts] at h
  | cons x rest =>
    have first : age x < age r := age_head_youngerPart_lt (list := list) (by simp [parts])
    rw [parts] at h sorted
    obtain rfl | behind := List.mem_cons.mp h
    · exact first
    · exact ((List.pairwise_cons.mp sorted).1 y behind).trans first

/-- The insertion keeps a list in descending age in descending age, when no record of it has r's own age (R98). -/
theorem pairwise_insertByAge (sorted : list.Pairwise fun a b => age b < age a) (distinct : ∀ y ∈ list, age y ≠ age r) :
    (olderPart age r list ++ r :: youngerPart age r list).Pairwise fun a b => age b < age a := by
  have parts := olderPart_append_youngerPart age r list
  have older : ∀ y ∈ olderPart age r list, age r < age y := fun y hy =>
    lt_of_le_of_ne (le_age_of_mem_olderPart hy) (distinct y (parts ▸ List.mem_append_left _ hy)).symm
  have younger : ∀ y ∈ youngerPart age r list, age y < age r := fun y hy => age_lt_of_mem_youngerPart sorted hy
  have sortedParts := sorted
  rw [← parts, List.pairwise_append] at sortedParts
  obtain ⟨sortedOlder, sortedYounger, across⟩ := sortedParts
  refine List.pairwise_append.mpr ⟨sortedOlder, List.pairwise_cons.mpr ⟨younger, sortedYounger⟩, fun a ha => ?_⟩
  exact List.forall_mem_cons.mpr ⟨older a ha, across a ha⟩

end

/-- A requeue writes the list, with r in its place, and counts (R104). -/
theorem State.requeue_eq (s : State) (q : QueueId) (r : Record) : s.requeue q r = { s with
    queues := s.queues.set q { s.queue q with
      list := olderPart (s.queue q).age r (s.queue q).list ++ r :: youngerPart (s.queue q).age r (s.queue q).list
      counters := { (s.queue q).counters with requeued := bump (s.queue q).counters.requeued } }
    notice := s.notice.follow q (s.queue q).config (s.queue q).list.length ((s.queue q).list.length + 1) s.clock s.synced } := by
  rw [← insertByAge_eq, ← length_insertByAge (s.queue q).age r]
  exact State.countQueue_setList s q (insertByAge (s.queue q).age r (s.queue q).list)
    fun c => { c with requeued := bump c.requeued }

/-! ## A record that comes back (R131, R132) -/

section
variable {s : State} {q t : QueueId} {r : Record}

theorem State.comeBack_of_within_limit (h : r.deliveryCount ≤ (s.queue q).config.redeliveryLimit) :
    s.comeBack q r = s.requeue q r := if_neg h.not_gt

/-- An exhausted record that has been spilled before, or whose queue has no spill queue, is dropped. -/
theorem State.comeBack_of_no_spill (h : ¬r.deliveryCount ≤ (s.queue q).config.redeliveryLimit)
    (noSpill : r.spilled = true ∨ (s.queue q).config.spillQueue = none) : s.comeBack q r = s.dropRecord q r := by
  simp only [State.comeBack, if_pos (Nat.lt_of_not_le h)]
  obtain spilled | none := noSpill
  · rw [spilled]
  · rw [none]; cases r.spilled <;> rfl

theorem State.comeBack_of_spill (h : ¬r.deliveryCount ≤ (s.queue q).config.redeliveryLimit) (fresh : r.spilled = false)
    (target : (s.queue q).config.spillQueue = some t) : s.comeBack q r = s.spillRecord q t r := by
  simp only [State.comeBack, if_pos (Nat.lt_of_not_le h), fresh, target]

/-- A spill takes the record off its source queue's charge and offers it to the target (R102). -/
theorem State.spillRecord_of_enabled (enabled : (s.queue t).config.enabled = true) : s.spillRecord q t r =
    ({ s with queues := s.queues.set q { s.queue q with
      charge := (s.queue q).charge - 1
      counters := { (s.queue q).counters with spilledOut := bump (s.queue q).counters.spilledOut } } } : State).offer t true
      { r with deliveryCount := 0, spilled := true } := by
  rw [State.spillRecord, if_pos enabled, State.countQueue_chargeDown]

theorem State.spillRecord_of_disabled (disabled : ¬(s.queue t).config.enabled = true) :
    s.spillRecord q t r = s.dropRecord q r := if_neg disabled

end

/-- Settles O36: the list falls into the part r stands behind and the part it stands before; and each branch for a record that
comes back is one operation. -/
theorem returnedRecordGoesByAgeOrSpills : Obligations.ReturnedRecordGoesByAgeOrSpills := by
  unfold Obligations.ReturnedRecordGoesByAgeOrSpills
  refine ⟨fun s q r => ?_, fun s q r => ?_⟩
  · exact ⟨_, _, (olderPart_append_youngerPart (s.queue q).age r _).symm, fun _ => le_age_of_mem_olderPart,
      fun _ => age_head_youngerPart_lt, State.requeue_eq s q r, pairwise_insertByAge⟩
  · extract_lets x dropped
    split
    next within => exact State.comeBack_of_within_limit within
    next exhausted =>
    split
    next spilled => exact (State.comeBack_of_no_spill exhausted (.inl spilled)).trans (State.dropRecord_eq s q r)
    next fresh =>
    have fresh : r.spilled = false := Bool.eq_false_of_not_eq_true fresh
    split
    next noTarget => exact (State.comeBack_of_no_spill exhausted (.inr noTarget)).trans (State.dropRecord_eq s q r)
    next t target =>
    rw [State.comeBack_of_spill exhausted fresh target]
    split
    next enabled => exact State.spillRecord_of_enabled enabled
    next disabled => exact (State.spillRecord_of_disabled disabled).trans (State.dropRecord_eq s q r)

end Sys2Proof.Machine
end

section
/-! FETCH (R117 to R121): the queue it reads from, what one delivery does, the request, and the obligations about both (O39,
O40). -/
namespace Sys2Proof.Machine

/-! ## One delivery (R103, R119 to R121) -/

theorem State.freeSlot_eq_none_iff {s : State} : s.freeSlot = none ↔ ∀ i, (s.slot i).occupant.isSome = true := by
  simp [State.freeSlot, allSlots, List.find?_eq_none, Option.isSome_iff_ne_none]

/-- A CLAIM delivery writes the queue, without its head, and the slot (R120). -/
theorem State.claimHead_eq (s : State) (q : QueueId) (r : Record) (rest : List Record) (i : SlotId) :
    s.claimHead q r rest i =
      let count := min (r.deliveryCount + 1) 255
      let issue := (s.slot i).issue
      ({ s with
        slots := s.slots.set i ⟨issue, some ⟨{ r with deliveryCount := count }, q, leaseDeadline (s.queue q).config s.clock⟩⟩
        queues := s.queues.set q { s.queue q with
          list := rest
          counters := { (s.queue q).counters with delivered := bump (s.queue q).counters.delivered } }
        notice := s.notice.follow q (s.queue q).config (s.queue q).list.length rest.length s.clock s.synced },
       entryBytes { r with deliveryCount := count } (decide (1 < count)) (some (handleOf issue i))) := by
  have config : ((s.setList q rest).queue q).config = (s.queue q).config := by
    rw [show (s.setList q rest).queue q = _ from State.queue_setQueue_same s q _]
  have queueWritten := State.countQueue_setList s q rest fun c => { c with delivered := bump c.delivered }
  have slotLast : (s.claimHead q r rest i).1 =
      ((s.setList q rest).countQueue q fun c => { c with delivered := bump c.delivered }).setSlot i
        ⟨(s.slot i).issue, some ⟨{ r with deliveryCount := min (r.deliveryCount + 1) 255 }, q,
          leaseDeadline ((s.setList q rest).queue q).config s.clock⟩⟩ := rfl
  refine Prod.ext ?_ rfl
  rw [slotLast, config, queueWritten]
  rfl

/-- A TAKE delivery frees the head and writes the queue without it (R121). -/
theorem State.takeHead_eq (s : State) (q : QueueId) (r : Record) (rest : List Record) : s.takeHead q r rest =
    ({ s with
      store := s.store.free r
      queues := s.queues.set q { s.queue q with
        list := rest
        charge := (s.queue q).charge - 1
        counters := { (s.queue q).counters with taken := bump (s.queue q).counters.taken } }
      notice := s.notice.follow q (s.queue q).config (s.queue q).list.length rest.length s.clock s.synced },
     entryBytes r (decide (1 ≤ r.deliveryCount)) none) := by
  have charge : ((s.setList q rest).queue q).charge = (s.queue q).charge := by
    rw [show (s.setList q rest).queue q = _ from State.queue_setQueue_same s q _]
  have freedLast : (s.takeHead q r rest).1 =
      (((s.setList q rest).setCharge q (((s.setList q rest).queue q).charge - 1)).countQueue q fun c =>
        { c with taken := bump c.taken }).freeRecord r := rfl
  refine Prod.ext ?_ rfl
  rw [freedLast, charge, State.countQueue_setCharge_setList]
  rfl

section
variable {s : State} {mode : FetchMode} {q : QueueId} {used : Nat} {r : Record} {rest : List Record}

theorem State.deliverHead_of_empty (h : (s.queue q).list = []) : s.deliverHead mode q used = none := by
  simp only [State.deliverHead, h]

/-- Taking stops at the first record whose entry would not fit (R119). -/
theorem State.deliverHead_of_too_long (h : (s.queue q).list = r :: rest) (long : 1022 < used + entrySize mode r) :
    s.deliverHead mode q used = none := by
  simp only [State.deliverHead, h, if_pos long]

theorem State.deliverHead_take (h : (s.queue q).list = r :: rest) (fits : ¬1022 < used + entrySize .take r) :
    s.deliverHead .take q used = some (s.takeHead q r rest) := by
  simp only [State.deliverHead, h, if_neg fits]

theorem State.deliverHead_claim {i : SlotId} (h : (s.queue q).list = r :: rest) (fits : ¬1022 < used + entrySize .claim r)
    (free : s.freeSlot = some i) : s.deliverHead .claim q used = some (s.claimHead q r rest i) := by
  simp only [State.deliverHead, h, if_neg fits, free, Option.map_some]

/-- A CLAIM takes nothing when no slot is EMPTY (R119). -/
theorem State.deliverHead_claim_of_full (full : s.freeSlot = none) : s.deliverHead .claim q used = none := by
  cases h : (s.queue q).list with
  | nil => exact State.deliverHead_of_empty h
  | cons r rest => simp only [State.deliverHead, h, full, Option.map_none, ite_self]

theorem State.deliverMany_of_none {k : Nat} (h : s.deliverHead mode q used = none) :
    s.deliverMany mode q (k + 1) used = (s, []) := by
  simp only [State.deliverMany, h]

theorem State.deliverMany_of_some {k : Nat} {out : State × List Byte} (h : s.deliverHead mode q used = some out) :
    s.deliverMany mode q (k + 1) used =
      ((out.1.deliverMany mode q k (used + out.2.length)).1,
        out.2 :: (out.1.deliverMany mode q k (used + out.2.length)).2) := by
  simp only [State.deliverMany, h]

end

/-- Settles O40: the next delivery is made or not as the list, the entry's length and the slots say, and it is one write of the
queue with a write of the slot or a free. -/
theorem deliveriesTakeTheHead : Obligations.DeliveriesTakeTheHead := by
  unfold Obligations.DeliveriesTakeTheHead
  intro s mode q k used x
  refine ⟨rfl, ?_⟩
  split
  next empty => exact State.deliverMany_of_none (State.deliverHead_of_empty empty)
  next r rest head =>
  have length : (s.queue q).list.length = rest.length + 1 := by rw [head, List.length_cons]
  cases mode with
  | take =>
    obtain long | fits := Decidable.em (1022 < used + entrySize .take r)
    · exact (State.deliverMany_of_none (State.deliverHead_of_too_long head long)).trans (if_pos long).symm
    · refine Eq.trans ?_ (if_neg fits).symm
      rw [State.deliverMany_of_some (State.deliverHead_take head fits), State.takeHead_eq, length]
  | claim =>
    obtain long | fits := Decidable.em (1022 < used + entrySize .claim r)
    · exact (State.deliverMany_of_none (State.deliverHead_of_too_long head long)).trans (if_pos long).symm
    · refine Eq.trans ?_ (if_neg fits).symm
      dsimp only
      split
      next full => exact State.deliverMany_of_none (State.deliverHead_claim_of_full full)
      next i free => rw [State.deliverMany_of_some (State.deliverHead_claim head fits free), State.claimHead_eq, length]; rfl

/-! ## The queue (R118) -/

/-- What stands before an entry of an ascending list is less than it. -/
theorem exists_append_of_mem_of_pairwise_lt {α : Type} [LT α] {list : List α} {a : α} (ascending : list.Pairwise (· < ·))
    (mem : a ∈ list) : ∃ before after, list = before ++ a :: after ∧ ∀ b ∈ before, b < a := by
  obtain ⟨before, after, parts⟩ := List.append_of_mem mem
  rw [parts, List.pairwise_append] at ascending
  obtain ⟨-, -, below⟩ := ascending
  exact ⟨before, after, parts, fun b hb => below b hb a List.mem_cons_self⟩

theorem mem_allQueues (q : QueueId) : q ∈ allQueues := by revert q; decide

theorem allQueues_pairwise_lt : allQueues.Pairwise (· < ·) := by decide

/-- Queue p stands before q in R118's order: better priority, or the same priority and no higher a number. -/
def State.NoWorse (s : State) (p q : QueueId) : Prop :=
  (s.queue p).config.priority < (s.queue q).config.priority ∨
    ((s.queue p).config.priority = (s.queue q).config.priority ∧ p ≤ q)

theorem State.candidate_iff {s : State} {q : QueueId} :
    s.candidate q = true ↔ (s.queue q).config.enabled = true ∧ (s.queue q).list ≠ [] := by
  simp [State.candidate]

/-- The search finds the candidate no other candidate stands before: no priority below its own has a candidate, and among its
own priority no queue numbered below it is one. -/
theorem State.bestQueue_eq_some {s : State} {q : QueueId} (inRange : (s.queue q).config.priority ≤ 3)
    (candidate : s.candidate q = true) (best : ∀ p, s.candidate p = true → s.NoWorse q p) : s.bestQueue = some q := by
  have levels : (s.queue q).config.priority ∈ ([0, 1, 2, 3] : List Nat) := by
    generalize (s.queue q).config.priority = k at inRange
    simp only [List.mem_cons, List.not_mem_nil, or_false]; omega
  obtain ⟨better, worse, levelParts, betterLt⟩ := exists_append_of_mem_of_pairwise_lt (by decide) levels
  obtain ⟨before, after, queueParts, beforeLt⟩ := exists_append_of_mem_of_pairwise_lt allQueues_pairwise_lt (mem_allQueues q)
  refine List.findSome?_eq_some_iff.mpr ⟨better, _, worse, levelParts, ?_, fun k hk => ?_⟩
  · refine List.find?_eq_some_iff_append.mpr ⟨by simp [candidate], before, after, queueParts, fun p hp => ?_⟩
    have notFirst : ¬(s.candidate p = true ∧ (s.queue p).config.priority = (s.queue q).config.priority) := by
      rintro ⟨isCandidate, samePriority⟩
      obtain lower | ⟨-, notAbove⟩ := best p isCandidate
      · exact lower.ne samePriority.symm
      · exact (beforeLt p hp).not_ge notAbove
    rw [Bool.not_eq_true', Bool.eq_false_iff]
    simpa using notFirst
  · refine List.find?_eq_none.mpr fun p _ => ?_
    have notBetter : ¬(s.candidate p = true ∧ (s.queue p).config.priority = k) := by
      rintro ⟨isCandidate, rfl⟩
      obtain lower | ⟨same, -⟩ := best p isCandidate
      · exact lower.not_gt (betterLt _ hk)
      · exact (betterLt _ hk).ne same.symm
    simpa using notBetter

theorem State.bestQueue_eq_none {s : State} (h : ∀ q, ¬s.candidate q = true) : s.bestQueue = none := by
  refine List.findSome?_eq_none_iff.mpr fun k _ => List.find?_eq_none.mpr fun q _ => ?_
  simp [h q]

/-- The queue the search finds is a candidate. -/
theorem State.candidate_of_bestQueue {s : State} {q : QueueId} (h : s.bestQueue = some q) : s.candidate q = true := by
  obtain ⟨k, -, found⟩ := List.exists_of_findSome?_eq_some h
  have holds := List.find?_some found
  simp only [Bool.and_eq_true] at holds
  exact holds.1

/-! ## The request (R117) -/

/-- The arguments R117 refuses: a queue that is neither ANY nor 0 to 7, a count outside 1 to 16, a mode that is none. -/
def FetchRefused (queue count mode : Byte) : Prop :=
  (queue ≠ 0xFF ∧ 8 ≤ queue.toNat) ∨ count = 0 ∨ 16 < count.toNat ∨ 1 < mode.toNat

/-- The queue a FETCH names; `none` is ANY. -/
def namedQueue (queue : Byte) : Option QueueId := if queue ≠ 0xFF then some (Fin.ofNat 8 queue.toNat) else none

theorem namedQueue_isSome (queue : Byte) : (namedQueue queue).isSome = decide (queue ≠ 0xFF) := by
  unfold namedQueue
  split
  next notAny => rw [decide_eq_true notAny]; rfl
  next any => rw [decide_eq_false any]; rfl

/-- A named queue is read from, and ANY leaves the choice to the search. -/
theorem namedQueue_or (queue : Byte) (best : Option QueueId) :
    (namedQueue queue).or best = if queue ≠ 0xFF then some (Fin.ofNat 8 queue.toNat) else best := by
  unfold namedQueue
  split <;> rfl

theorem countByte_inRange_iff {count : Byte} : (1 ≤ count.toNat ∧ count.toNat ≤ 16) ↔ ¬(count = 0 ∨ 16 < count.toNat) := by
  have zero : count = 0 ↔ count.toNat = 0 := by rw [← BitVec.toNat_inj]; rfl
  rw [zero]; omega

theorem spillArg_eq_namedQueue {queue : Byte} (h : ¬(queue ≠ 0xFF ∧ 8 ≤ queue.toNat)) :
    spillArg queue = some (namedQueue queue) := by
  by_cases any : queue = 0xFF
  · subst any; rfl
  · have named : queue.toNat < 8 := Nat.lt_of_not_le fun le => h ⟨any, le⟩
    have number : (⟨queue.toNat, named⟩ : QueueId) = Fin.ofNat 8 queue.toNat := Fin.ext (Nat.mod_eq_of_lt named).symm
    rw [spillArg_of_valid (.inl (Nat.le_of_lt_succ named)), queueNumber_of_lt named, number, namedQueue, if_pos any]

theorem not_fetchRefused_of_read {queue count mode : Byte} {q : Option QueueId} (named : spillArg queue = some q)
    (inRange : 1 ≤ count.toNat ∧ count.toNat ≤ 16) (isMode : mode.toNat ≤ 1) : ¬FetchRefused queue count mode := by
  rintro (⟨notAny, high⟩ | zero | many | noMode)
  · rw [spillArg_of_invalid (not_or.mpr ⟨Nat.not_le_of_lt high, notAny⟩)] at named
    cases named
  · exact countByte_inRange_iff.mp inRange (.inl zero)
  · exact inRange.2.not_gt many
  · exact isMode.not_gt noMode

theorem fetchArg_of_refused {queue count mode : Byte} (h : FetchRefused queue count mode) :
    fetchArg [queue, count, mode] = none := by
  simp only [fetchArg]
  split
  next named inRange claim =>
    exact absurd h (not_fetchRefused_of_read named (of_decide_eq_true inRange) (claim.le.trans zero_le_one))
  next named inRange take => exact absurd h (not_fetchRefused_of_read named (of_decide_eq_true inRange) take.le)
  next => rfl

/-- The mode an accepted mode byte names. -/
def fetchMode (mode : Byte) : FetchMode := if mode = 0 then .claim else .take

theorem fetchMode_eq_claim_iff {mode : Byte} : fetchMode mode = .claim ↔ mode = 0 := by
  by_cases claim : mode = 0 <;> simp only [fetchMode, claim, if_true, if_false, reduceCtorEq]

theorem fetchArg_of_not_refused {queue count mode : Byte} (h : ¬FetchRefused queue count mode) :
    fetchArg [queue, count, mode] = some (namedQueue queue, count.toNat, fetchMode mode) := by
  simp only [FetchRefused, not_or] at h
  obtain ⟨queueOk, notZero, notMany, modeOk⟩ := h
  have inRange := countByte_inRange_iff.mpr (not_or.mpr ⟨notZero, notMany⟩)
  by_cases claim : mode = 0
  · subst claim
    simp only [fetchArg, spillArg_eq_namedQueue queueOk, inRange, and_self, decide_true]
    rfl
  · have notZero : mode.toNat ≠ 0 := fun zero => claim (BitVec.eq_of_toNat_eq zero)
    have take : mode.toNat = 1 := by omega
    simp only [fetchArg, spillArg_eq_namedQueue queueOk, inRange, and_self, decide_true, take, fetchMode, if_neg claim]

section
variable {s : State} {named : Option QueueId} {q : QueueId} {mode : FetchMode}

/-- No queue is named and none is a candidate (R118). -/
theorem State.fetchTarget_of_no_queue (h : named.or s.bestQueue = none) : s.fetchTarget named mode = .error 0x01 := by
  obtain ⟨rfl, none⟩ := Option.or_eq_none_iff.mp h
  simp only [State.fetchTarget, none]; rfl

/-- With a queue to read from, the answers in R117's order; one that ANY has found is enabled and holds a record. -/
theorem State.fetchTarget_of_queue (h : named.or s.bestQueue = some q) : s.fetchTarget named mode =
    if named.isSome = true ∧ (s.queue q).config.enabled = false then .error 0x22
    else if (s.queue q).list = [] then .error 0x01
    else if mode = .claim ∧ s.freeSlot = none then .error 0x23
    else .ok q := by
  cases named with
  | some p =>
    obtain rfl : p = q := Option.some.inj h
    simp only [Option.isSome_some, true_and]
    rfl
  | none =>
    have best : s.bestQueue = some q := h
    obtain ⟨-, filled⟩ := State.candidate_iff.mp (State.candidate_of_bestQueue best)
    simp only [State.fetchTarget, best, filled, Option.isSome_none, Bool.false_eq_true, false_and, if_false]
    rfl

variable {body : List Byte} {count : Nat}

theorem fetchAct_of_bad_argument (h : fetchArg body = none) : fetchAct body s = (s, [0x20, 0]) := by
  simp only [fetchAct, h]; rfl

theorem fetchAct_of_error {code : Byte} (h : fetchArg body = some (named, count, mode))
    (error : s.fetchTarget named mode = .error code) : fetchAct body s = (s, [code, 0]) := by
  simp only [fetchAct, h, error]

theorem fetchAct_of_target (h : fetchArg body = some (named, count, mode)) (ok : s.fetchTarget named mode = .ok q) :
    fetchAct body s = ((s.deliverMany mode q count 0).1,
      0x00 :: byteOf (s.deliverMany mode q count 0).2.length :: (s.deliverMany mode q count 0).2.flatten) := by
  simp only [fetchAct, h, ok]; rfl

end

/-! ### The popped request does not matter to a delivery -/

theorem State.claimHead_popRequest (s : State) (q : QueueId) (r : Record) (rest : List Record) (i : SlotId) :
    s.popRequest.claimHead q r rest i = ((s.claimHead q r rest i).1.popRequest, (s.claimHead q r rest i).2) := rfl

theorem State.takeHead_popRequest (s : State) (q : QueueId) (r : Record) (rest : List Record) :
    s.popRequest.takeHead q r rest = ((s.takeHead q r rest).1.popRequest, (s.takeHead q r rest).2) := rfl

theorem State.deliverHead_popRequest (s : State) (mode : FetchMode) (q : QueueId) (used : Nat) :
    s.popRequest.deliverHead mode q used = (s.deliverHead mode q used).map fun out => (out.1.popRequest, out.2) := by
  have free : s.popRequest.freeSlot = s.freeSlot := rfl
  unfold State.deliverHead
  rw [State.queue_popRequest, free]
  split
  · rfl
  · split
    · rfl
    · cases mode with
      | claim => simp only [Option.map_map]; rfl
      | take => rfl

theorem State.deliverMany_popRequest (s : State) (mode : FetchMode) (q : QueueId) (k used : Nat) :
    s.popRequest.deliverMany mode q k used =
      ((s.deliverMany mode q k used).1.popRequest, (s.deliverMany mode q k used).2) := by
  induction k generalizing s used with
  | zero => rfl
  | succ k ih =>
    have delivery := State.deliverHead_popRequest s mode q used
    cases head : s.deliverHead mode q used with
    | none =>
      rw [head] at delivery
      rw [State.deliverMany_of_none head, State.deliverMany_of_none delivery]
    | some out =>
      rw [head] at delivery
      rw [State.deliverMany_of_some head, State.deliverMany_of_some delivery, ih]

/-- A request row whose block does not look at the popped request and leaves the control link alone (R161). -/
theorem State.request_of_popped_act {s t : State} {r : Frame} {rest : List Frame} {kind : Byte} {out : List Byte}
    {act : List Byte → State → State × List Byte} (starts : Starts s r rest) (hkind : r.kind = kind)
    (hlen : bodyLengthOk r = true) (hact : act r.body s.popRequest = (t.popRequest, out)) (hlink : t.link = s.link) :
    s.request kind act = .next { t with link := s.link.answered r out } := by
  rw [State.request_of_act starts hkind hlen hact (by simp only [State.popRequest, hlink])]
  rfl

section
variable {s : State} {r : Frame} {rest : List Frame} {queue count mode : Byte}

theorem bodyLengthOk_of_fetch (hkind : r.kind = 0x40) (hbody : r.body = [queue, count, mode]) : bodyLengthOk r = true := by
  simp [bodyLengthOk, hkind, hbody, requestLength]

theorem exec_fetch_of_refused (starts : Starts s r rest) (hkind : r.kind = 0x40) (hbody : r.body = [queue, count, mode])
    (h : FetchRefused queue count mode) : exec .fetch s = .next (s.replied r [0x20, 0]) := by
  have arg : fetchArg r.body = none := hbody ▸ fetchArg_of_refused h
  exact State.request_of_reply starts hkind (bodyLengthOk_of_fetch hkind hbody) (fetchAct_of_bad_argument arg)

theorem exec_fetch_of_error {code : Byte} (starts : Starts s r rest) (hkind : r.kind = 0x40)
    (hbody : r.body = [queue, count, mode]) (h : ¬FetchRefused queue count mode)
    (error : s.fetchTarget (namedQueue queue) (fetchMode mode) = .error code) :
    exec .fetch s = .next (s.replied r [code, 0]) := by
  have arg := fetchArg_of_not_refused h
  rw [← hbody] at arg
  exact State.request_of_reply starts hkind (bodyLengthOk_of_fetch hkind hbody) (fetchAct_of_error (s := s.popRequest) arg error)

theorem exec_fetch_of_target {q : QueueId} (starts : Starts s r rest) (hkind : r.kind = 0x40)
    (hbody : r.body = [queue, count, mode]) (h : ¬FetchRefused queue count mode)
    (ok : s.fetchTarget (namedQueue queue) (fetchMode mode) = .ok q) :
    exec .fetch s = .next (
      let out := s.deliverMany (fetchMode mode) q count.toNat 0
      { out.1 with link := s.link.answered r (0x00 :: byteOf out.2.length :: out.2.flatten) }) := by
  have arg := fetchArg_of_not_refused h
  rw [← hbody] at arg
  have act := fetchAct_of_target (s := s.popRequest) arg ok
  rw [State.deliverMany_popRequest] at act
  exact State.request_of_popped_act starts hkind (bodyLengthOk_of_fetch hkind hbody) act (QueueSide.deliverMany (.refl s)).link

end

/-- Settles O39: the search of R118 finds the candidate no other stands before; and FETCH is its argument check, its target, and
the deliveries from it. -/
theorem fetchSettlesItsQueue : Obligations.FetchSettlesItsQueue := by
  unfold Obligations.FetchSettlesItsQueue
  refine ⟨fun s inRange => ?_, fun s r rest queue count mode starts hkind hbody => ?_⟩
  · simp only [← State.candidate_iff]
    exact ⟨fun q candidate best => State.bestQueue_eq_some (inRange q) candidate best, State.bestQueue_eq_none⟩
  · extract_lets named target
    have isNamed : (namedQueue queue).isSome = named := namedQueue_isSome queue
    have targetEq : (namedQueue queue).or s.bestQueue = target := by
      simp only [namedQueue_or, target, named, decide_eq_true_eq]
    have refusedIff : (named = true ∧ 8 ≤ queue.toNat) ∨ count = 0 ∨ 16 < count.toNat ∨ 1 < mode.toNat ↔
        FetchRefused queue count mode := by
      simp only [FetchRefused, named, decide_eq_true_eq]
    split
    next refused => exact exec_fetch_of_refused starts hkind hbody (refusedIff.mp refused)
    next accepted =>
    have accepted := mt refusedIff.mpr accepted
    clear_value target
    split
    next => exact exec_fetch_of_error starts hkind hbody accepted (State.fetchTarget_of_no_queue targetEq)
    next q =>
    have outcome := State.fetchTarget_of_queue (mode := fetchMode mode) targetEq
    simp only [isNamed, fetchMode_eq_claim_iff, State.freeSlot_eq_none_iff] at outcome
    split
    next disabled => exact exec_fetch_of_error starts hkind hbody accepted (outcome.trans (if_pos disabled))
    next enabled =>
    rw [if_neg enabled] at outcome
    split
    next empty => exact exec_fetch_of_error starts hkind hbody accepted (outcome.trans (if_pos empty))
    next filled =>
    rw [if_neg filled] at outcome
    split
    next full => exact exec_fetch_of_error starts hkind hbody accepted (outcome.trans (if_pos full))
    next room => exact exec_fetch_of_target starts hkind hbody accepted (outcome.trans (if_neg room))

end Sys2Proof.Machine
end

section
/-! Handles (R115), what RELEASE, RETURN and EXTEND do with one and with a list of them (R124 to R127), lease expiry (R129), and
the obligations about both (O42, O43). -/
namespace Sys2Proof.Machine

/-! ## Handles (R115) -/

theorem handleOf_toNat (issue : BitVec 10) (i : SlotId) : (handleOf issue i).toNat = issue.toNat * 64 + i.val := by
  rw [handleOf, BitVec.toNat_append, BitVec.toNat_ofNat, Nat.mod_eq_of_lt i.isLt,
    ← Nat.shiftLeft_add_eq_or_of_lt i.isLt, Nat.shiftLeft_eq]

theorem handleSlot_val (h : Half) : (handleSlot h).val = h.toNat % 64 := by
  rw [handleSlot, BitVec.val_toFin, BitVec.extractLsb'_toNat, Nat.shiftRight_zero]

theorem handleIssue_toNat (h : Half) : (handleIssue h).toNat = h.toNat / 64 := by
  rw [handleIssue, BitVec.extractLsb'_toNat, Nat.shiftRight_eq_div_pow]
  have := h.isLt
  omega

theorem handleSlot_handleOf (issue : BitVec 10) (i : SlotId) : handleSlot (handleOf issue i) = i := by
  apply Fin.ext
  rw [handleSlot_val, handleOf_toNat]
  omega

theorem handleIssue_handleOf (issue : BitVec 10) (i : SlotId) : handleIssue (handleOf issue i) = issue := by
  apply BitVec.eq_of_toNat_eq
  rw [handleIssue_toNat, handleOf_toNat]
  omega

theorem State.validHandle_eq_some_iff {s : State} {h : Half} {o : Occupant} : s.validHandle h = some o ↔
    (s.slot (handleSlot h)).occupant = some o ∧ (s.slot (handleSlot h)).issue = handleIssue h := by
  simp only [State.validHandle, Option.ite_none_right_eq_some, and_comm]

/-! ## Lists of handles (R124) -/

theorem readHandles_flatMap_be16 (handles : List Half) : readHandles (handles.flatMap be16) = handles := by
  induction handles with
  | nil => rfl
  | cons h rest ih =>
    calc readHandles ((h :: rest).flatMap be16)
      _ = half (h.extractLsb' 8 8) (h.extractLsb' 0 8) :: readHandles (rest.flatMap be16) := rfl
      _ = h :: rest := by rw [half_be16, ih]

theorem length_flatMap_be16 (handles : List Half) : (handles.flatMap be16).length = 2 * handles.length := by
  induction handles with
  | nil => rfl
  | cons h rest ih => simp only [List.flatMap_cons, List.length_append, ih, be16, List.length_cons, List.length_nil]; omega

theorem byteOf_toNat {n : Nat} (h : n ≤ 255) : (byteOf n).toNat = n :=
  BitVec.toNat_ofNat n 8 ▸ Nat.mod_eq_of_lt (Nat.lt_succ_of_le h)

section
variable {handles : List Half}

theorem handlesArg_of_refused (h : handles = [] ∨ 32 < handles.length) (fits : handles.length ≤ 255) :
    handlesArg (byteOf handles.length :: handles.flatMap be16) = none := by
  have notOk : ¬(1 ≤ handles.length ∧ handles.length ≤ 32) := by
    rw [← List.length_eq_zero_iff] at h; omega
  simp only [handlesArg, byteOf_toNat fits, if_neg notOk]

theorem handlesArg_of_accepted (h : ¬(handles = [] ∨ 32 < handles.length)) (fits : handles.length ≤ 255) :
    handlesArg (byteOf handles.length :: handles.flatMap be16) = some handles := by
  have ok : 1 ≤ handles.length ∧ handles.length ≤ 32 := by
    rw [← List.length_eq_zero_iff] at h; omega
  simp only [handlesArg, byteOf_toNat fits, if_pos ok, readHandles_flatMap_be16]

end

/-! ## One handle (R116, R125 to R127) -/

section
variable {s : State} {h : Half} {o : Occupant}

theorem releaseHandle_of_stale (stale : s.validHandle h = none) : releaseHandle h s = (s, 0x06) := by
  simp only [releaseHandle, stale]; rfl

theorem returnHandle_of_stale (stale : s.validHandle h = none) : returnHandle h s = (s, 0x06) := by
  simp only [returnHandle, stale]; rfl

theorem extendHandle_of_stale (stale : s.validHandle h = none) : extendHandle h s = (s, 0x06) := by
  simp only [extendHandle, stale]; rfl

theorem releaseHandle_of_valid (valid : s.validHandle h = some o) : releaseHandle h s = ({ s with
    store := s.store.free o.record
    slots := s.slots.set (handleSlot h) ⟨(s.slot (handleSlot h)).issue + 1, none⟩
    queues := s.queues.set o.source { s.queue o.source with
      charge := (s.queue o.source).charge - 1
      counters := { (s.queue o.source).counters with released := bump (s.queue o.source).counters.released } } }, 0x02) := by
  simp only [releaseHandle, valid, State.countQueue_chargeDown]
  rfl

theorem returnHandle_of_valid (valid : s.validHandle h = some o) : returnHandle h s = (({ s with
    slots := s.slots.set (handleSlot h) ⟨(s.slot (handleSlot h)).issue + 1, none⟩
    queues := s.queues.set o.source { s.queue o.source with
      counters := { (s.queue o.source).counters with returned := bump (s.queue o.source).counters.returned } } } :
    State).comeBack o.source o.record, 0x03) := by
  simp only [returnHandle, valid]
  rfl

theorem leaseDeadline_isSome (c : QueueConfig) (now : Nat) : (leaseDeadline c now).isSome = true ↔ c.leaseTime ≠ 0 := by
  unfold leaseDeadline
  split <;> simp [*]

theorem extendHandle_of_valid (valid : s.validHandle h = some o) : extendHandle h s = ({ s with
    slots := s.slots.set (handleSlot h) { s.slot (handleSlot h) with
      occupant := some { o with deadline := leaseDeadline (s.queue o.source).config s.clock } } },
    if (s.queue o.source).config.leaseTime = 0 then 0x05 else 0x04) := by
  simp only [extendHandle, valid, leaseDeadline_isSome, ite_not]
  rfl

end

/-! ### The popped request does not matter to a handle -/

theorem State.enqueue_popRequest (s : State) (q : QueueId) (spill : Bool) (r : Record) :
    s.popRequest.enqueue q spill r = (s.enqueue q spill r).popRequest := rfl

theorem State.evictHead_popRequest (s : State) (q : QueueId) (head : Record) (rest : List Record) :
    s.popRequest.evictHead q head rest = (s.evictHead q head rest).popRequest := rfl

theorem State.offer_popRequest (s : State) (q : QueueId) (spill : Bool) (r : Record) :
    s.popRequest.offer q spill r = (s.offer q spill r).popRequest := by
  unfold State.offer
  rw [State.queue_popRequest]
  dsimp only
  split
  · rfl
  · cases (s.queue q).config.policy with
    | refuseNew => rfl
    | dropOldest =>
      cases (s.queue q).list with
      | nil => rfl
      | cons head rest =>
        dsimp only
        rw [State.evictHead_popRequest, State.enqueue_popRequest]
        rfl

theorem State.spillRecord_popRequest (s : State) (q t : QueueId) (r : Record) :
    s.popRequest.spillRecord q t r = (s.spillRecord q t r).popRequest := by
  by_cases enabled : (s.queue t).config.enabled = true
  · rw [State.spillRecord_of_enabled enabled, State.spillRecord_of_enabled (s := s.popRequest) enabled,
      ← State.offer_popRequest]
    rfl
  · rw [State.spillRecord_of_disabled enabled, State.spillRecord_of_disabled (s := s.popRequest) enabled]
    rfl

theorem State.comeBack_popRequest (s : State) (q : QueueId) (r : Record) :
    s.popRequest.comeBack q r = (s.comeBack q r).popRequest := by
  unfold State.comeBack
  rw [State.queue_popRequest]
  dsimp only
  split
  · split
    · exact State.spillRecord_popRequest s q _ r
    · rfl
  · rfl

section
variable (h : Half) (s : State)

theorem releaseHandle_popRequest : releaseHandle h s.popRequest = ((releaseHandle h s).1.popRequest, (releaseHandle h s).2) := by
  have same : s.popRequest.validHandle h = s.validHandle h := rfl
  cases valid : s.validHandle h with
  | none => rw [releaseHandle_of_stale valid, releaseHandle_of_stale (same.trans valid)]
  | some o => rw [releaseHandle_of_valid valid, releaseHandle_of_valid (same.trans valid)]; rfl

theorem returnHandle_popRequest : returnHandle h s.popRequest = ((returnHandle h s).1.popRequest, (returnHandle h s).2) := by
  have same : s.popRequest.validHandle h = s.validHandle h := rfl
  cases valid : s.validHandle h with
  | none => rw [returnHandle_of_stale valid, returnHandle_of_stale (same.trans valid)]
  | some o =>
    rw [returnHandle_of_valid valid, returnHandle_of_valid (same.trans valid), ← State.comeBack_popRequest]
    rfl

theorem extendHandle_popRequest : extendHandle h s.popRequest = ((extendHandle h s).1.popRequest, (extendHandle h s).2) := by
  have same : s.popRequest.validHandle h = s.validHandle h := rfl
  cases valid : s.validHandle h with
  | none => rw [extendHandle_of_stale valid, extendHandle_of_stale (same.trans valid)]
  | some o => rw [extendHandle_of_valid valid, extendHandle_of_valid (same.trans valid)]; rfl

end

/-! ## The requests (R124) -/

/-- The state after a request over a list of handles: refused for its count, or one action on each in list order (R124). -/
def State.settled (one : Half → State → State × Byte) (r : Frame) (handles : List Half) (s : State) : State :=
  if handles = [] ∨ 32 < handles.length then s.replied r [0x20]
  else { (eachItem one handles s).1 with
    link := s.link.answered r (0x00 :: byteOf handles.length :: (eachItem one handles s).2) }

section
variable {one : Half → State → State × Byte} {body : List Byte} {s : State}

theorem settleAct_of_bad_argument (h : handlesArg body = none) : settleAct one body s = (s, [0x20]) := by
  simp only [settleAct, h]; rfl

theorem settleAct_of_handles {handles : List Half} (h : handlesArg body = some handles) : settleAct one body s =
    ((eachItem one handles s).1, 0x00 :: byteOf handles.length :: (eachItem one handles s).2) := by
  simp only [settleAct, h]; rfl

/-- The length a list count implies (R186, R187). -/
theorem requestLength_of_settles {kind count : Byte} {rest : List Byte} (h : kind = 0x41 ∨ kind = 0x42 ∨ kind = 0x43) :
    requestLength kind (count :: rest) = some (1 + 2 * count.toNat) := by
  obtain rfl | rfl | rfl := h <;> rfl

theorem State.request_settleAct {r : Frame} {rest : List Frame} {kind : Byte} {handles : List Half} (starts : Starts s r rest)
    (hkind : r.kind = kind) (settles : kind = 0x41 ∨ kind = 0x42 ∨ kind = 0x43) (fits : handles.length ≤ 255)
    (hbody : r.body = byteOf handles.length :: handles.flatMap be16)
    (pop : ∀ h s, one h s.popRequest = ((one h s).1.popRequest, (one h s).2))
    (side : ∀ h t, QueueSide s t → QueueSide s (one h t).1) :
    s.request kind (settleAct one) = .next (s.settled one r handles) := by
  have hlen : bodyLengthOk r = true := by
    rw [bodyLengthOk, hkind, hbody, requestLength_of_settles settles, byteOf_toNat fits, List.length_cons,
      length_flatMap_be16, Nat.add_comm, decide_eq_true rfl]
  unfold State.settled
  split
  next refused =>
    exact State.request_of_reply starts hkind hlen (settleAct_of_bad_argument (hbody ▸ handlesArg_of_refused refused fits))
  next accepted =>
    have act := settleAct_of_handles (one := one) (s := s.popRequest) (hbody ▸ handlesArg_of_accepted accepted fits)
    rw [eachItem_popRequest pop] at act
    exact State.request_of_popped_act starts hkind hlen act (QueueSide.eachItem side (.refl s)).link

end

/-- Settles O42: a handle is its slot and issue count, a request over a list is one action per handle, and each action is a case
of the handle's validity. -/
theorem handlesAreSettledInOrder : Obligations.HandlesAreSettledInOrder := by
  unfold Obligations.HandlesAreSettledInOrder
  refine ⟨⟨fun issue i => ⟨handleOf_toNat issue i, handleSlot_handleOf issue i, handleIssue_handleOf issue i⟩,
      fun h => ⟨handleSlot_val h, handleIssue_toNat h⟩, fun s h o => State.validHandle_eq_some_iff⟩,
    fun s r rest handles starts fits hbody => ⟨fun hkind => ?_, fun hkind => ?_, fun hkind => ?_⟩,
    fun one h rest s => ⟨rfl, rfl⟩,
    fun s h => ⟨fun stale => ⟨releaseHandle_of_stale stale, returnHandle_of_stale stale, extendHandle_of_stale stale⟩,
      fun o valid => ⟨releaseHandle_of_valid valid, returnHandle_of_valid valid, extendHandle_of_valid valid⟩⟩⟩
  · exact State.request_settleAct starts hkind (by decide) fits hbody releaseHandle_popRequest fun _ _ => QueueSide.releaseHandle
  · exact State.request_settleAct starts hkind (by decide) fits hbody returnHandle_popRequest fun _ _ => QueueSide.returnHandle
  · exact State.request_settleAct starts hkind (by decide) fits hbody extendHandle_popRequest fun _ _ => QueueSide.extendHandle

/-! ## Lease expiry (R129, R133) -/

/-- The slot of an expired lease is emptied, the expiry counted and LEASE_EXPIRED raised; the record is still to be dropped or
given back (R129). -/
def State.leaseEnded (i : SlotId) (o : Occupant) (s : State) : State := { s with
  slots := s.slots.set i ⟨(s.slot i).issue + 1, none⟩
  queues := s.queues.set o.source { s.queue o.source with
    counters := { (s.queue o.source).counters with expired := bump (s.queue o.source).counters.expired } }
  notice := s.notice.raise .leaseExpired (queueBit o.source) s.synced }

section
variable {s : State} {i : SlotId} {o : Occupant} {d : Nat}

theorem State.queue_leaseEnded : (s.leaseEnded i o).queue o.source = { s.queue o.source with
    counters := { (s.queue o.source).counters with expired := bump (s.queue o.source).counters.expired } } :=
  vector_set_same _ _ _

theorem State.expireLease_eq : s.expireLease i o = match (s.queue o.source).config.expiryAction with
    | .drop => (s.leaseEnded i o).dropRecord o.source o.record
    | .requeue => (s.leaseEnded i o).comeBack o.source o.record := by
  have action : ((s.leaseEnded i o).queue o.source).config.expiryAction = (s.queue o.source).config.expiryAction := by
    rw [State.queue_leaseEnded]
  rw [← action]
  rfl

/-- The drop of the record writes the source queue a second time (R129). -/
theorem State.dropRecord_leaseEnded : (s.leaseEnded i o).dropRecord o.source o.record = { s.leaseEnded i o with
    store := s.store.free o.record
    queues := s.queues.set o.source { s.queue o.source with
      charge := (s.queue o.source).charge - 1
      counters := { (s.queue o.source).counters with
        expired := bump (s.queue o.source).counters.expired
        droppedExhausted := bump (s.queue o.source).counters.droppedExhausted } } } := by
  rw [State.dropRecord_eq, State.queue_leaseEnded]
  simp only [State.leaseEnded, Vector.set_set]

theorem exec_leaseExpiry_of_due (running : s.running = true) (occupied : (s.slot i).occupant = some o)
    (deadline : o.deadline = some d) (due : d ≤ s.clock) : exec (.leaseExpiry i) s = .next (s.expireLease i o) := by
  change execLeaseExpiry i s = _
  simp only [execLeaseExpiry, State.event_next running, occupied, deadline, expired_some due, if_true]

end

/-- Settles O43: the event is due, and what follows is a case of the source queue's expiry action. -/
theorem leaseExpiryEmptiesTheSlot : Obligations.LeaseExpiryEmptiesTheSlot := by
  unfold Obligations.LeaseExpiryEmptiesTheSlot
  intro s i o d running occupied deadline due x t
  rw [exec_leaseExpiry_of_due running occupied deadline due, State.expireLease_eq]
  cases x.config.expiryAction with
  | requeue => rfl
  | drop => exact congrArg _ State.dropRecord_leaseEnded

end Sys2Proof.Machine
end

section
/-! Raises (R137, R141, R143), frees (R15, R17) and the test of the store-low state (R17): one equation for each, and the
obligation about them (O44). -/
namespace Sys2Proof.Machine

/-! ## Raises -/

section
variable {kind : AlertKind} {subject : Byte} {alerts before after : List AlertEntry}

theorem raiseAlert_of_absent (absent : ∀ a ∈ alerts, a.kind ≠ kind) :
    raiseAlert kind subject alerts = alerts ++ [⟨kind, 1, subject⟩] := by
  induction alerts with
  | nil => rfl
  | cons a rest ih =>
    obtain ⟨other, absent⟩ := List.forall_mem_cons.mp absent
    rw [raiseAlert, if_neg other, ih absent, List.cons_append]

theorem raiseAlert_of_present {count : Nat} {subjects : Byte} (absent : ∀ a ∈ before, a.kind ≠ kind) :
    raiseAlert kind subject (before ++ ⟨kind, count, subjects⟩ :: after) =
      before ++ ⟨kind, min (count + 1) 255, subjects ||| subject⟩ :: after := by
  induction before with
  | nil => exact if_pos rfl
  | cons a rest ih =>
    obtain ⟨other, absent⟩ := List.forall_mem_cons.mp absent
    rw [List.cons_append, raiseAlert, if_neg other, ih absent, List.cons_append]

theorem raiseAlert_ne_nil (kind : AlertKind) (subject : Byte) (alerts : List AlertEntry) :
    raiseAlert kind subject alerts ≠ [] := by
  cases alerts with
  | nil => exact List.cons_ne_nil _ _
  | cons a rest =>
    rw [raiseAlert]
    split <;> exact List.cons_ne_nil _ _

end

theorem Notice.wanted_of_alerts {n : Notice} (h : n.alerts ≠ []) : n.wanted = true := by
  rw [Notice.wanted, List.isEmpty_eq_false_iff.mpr h]
  rfl

/-- While an alert stands, R141's test comes down to the state, the enabling and the link. -/
theorem Notice.request_of_alerts {n : Notice} (synced : Bool) (h : n.alerts ≠ []) : n.request synced = { n with
    state := if n.state = .quiet ∧ n.enabled = true ∧ synced = true then .waitingLink else n.state } := by
  simp only [Notice.request, Notice.wanted_of_alerts h, true_and]
  split <;> rfl

/-- Only QUIET has a request to make and only AWAITING_ACK a dirty flag to set; the raised set is never empty. -/
theorem Notice.raise_eq (n : Notice) (kind : AlertKind) (subject : Byte) (synced : Bool) :
    n.raise kind subject synced = { n with
      alerts := raiseAlert kind subject n.alerts
      dirty := n.dirty || decide (n.state = .awaitingAck ∧ raiseAlert kind subject n.alerts ≠ n.alerts)
      state := if n.state = .quiet ∧ n.enabled = true ∧ synced = true then .waitingLink else n.state } := by
  cases state : n.state with
  | quiet => simp [Notice.raise, Notice.request_of_alerts, raiseAlert_ne_nil, state]
  | waitingLink => simp [Notice.raise, state]
  | awaitingAck =>
    by_cases changed : raiseAlert kind subject n.alerts = n.alerts <;> simp [Notice.raise, Notice.markDirty, state, changed]

/-! ## The store's warning -/

theorem Store.free_eq (st : Store) (r : Record) : st.free r = { st with
    freeDescriptors := st.freeDescriptors + 1
    freeBlocks := st.freeBlocks + (r.payloadLength + 63) / 64
    armed := st.armed || decide (min (st.watermark + 32) 1024 ≤ st.freeDescriptors + 1) } := rfl

theorem Store.low_iff (st : Store) :
    st.low = true ↔ st.armed = true ∧ st.watermark ≠ 0 ∧ st.freeDescriptors < st.watermark := by
  simp only [Store.low, Bool.and_eq_true, decide_eq_true_eq, and_assoc]

theorem State.storeLowTest_eq (s : State) : s.storeLowTest =
    if s.store.armed = true ∧ s.store.watermark ≠ 0 ∧ s.store.freeDescriptors < s.store.watermark then
      { s with store := { s.store with armed := false }, notice := s.notice.raise .storeLow 0 s.synced }
    else s := by
  simp only [← Store.low_iff]
  rfl

/-- Settles O44: a raise changes the set, the dirty flag and the state as `Notice.raise_eq` says, and the raised set is one case
or the other of R137; the store's two equations are beside it. -/
theorem raiseGathersAndStoreWarns : Obligations.RaiseGathersAndStoreWarns := by
  unfold Obligations.RaiseGathersAndStoreWarns
  refine ⟨fun n kind subject synced before after absent => ?_, Store.free_eq, State.storeLowTest_eq⟩
  refine ⟨fun alerts => ?_, fun count subjects alerts => ?_⟩
  · have appended : raiseAlert kind subject n.alerts = before ++ [⟨kind, 1, subject⟩] := by
      rw [alerts, raiseAlert_of_absent absent]
    rw [Notice.raise_eq, appended]
  · have gathered : raiseAlert kind subject n.alerts =
        before ++ ⟨kind, min (count + 1) 255, subjects ||| subject⟩ :: after := by
      rw [alerts, raiseAlert_of_present absent]
    rw [Notice.raise_eq, gathered]

end Sys2Proof.Machine
end

section
/-! NOTICE_ACK (R144 to R146): what a matching acknowledgement takes away, which one matches, and the obligation about both
(O47). -/
namespace Sys2Proof.Machine

/-! ## A matching acknowledgement (R145, R146) -/

/-- What the Notice Unit holds once the reported is taken away, before the next notice state is chosen (R145, R146). -/
def State.lessReported (s : State) (sn : Snapshot) : Notice := { s.notice with
  alerts := subtractAlerts sn.alerts s.notice.alerts
  levels := s.acknowledgedLevels sn
  snapshot := none
  renotice := none }

theorem State.acknowledge_eq (s : State) (sn : Snapshot) : s.acknowledge sn = { s with
    notice := { s.lessReported sn with
      state := if (s.lessReported sn).enabled = true ∧ ((s.lessReported sn).dirty = true ∨ (s.lessReported sn).wanted = true)
        then .waitingLink else .quiet
      dirty := false } } := by
  simp only [← Bool.or_eq_true]
  rfl

/-- P and the unreported-since time come from the snapshot for a queue in its due mask, and stay for any other (R146). -/
theorem acknowledgedLevel_eq (sn : Snapshot) (q : QueueId) (c : QueueConfig) (count now : Nat) (l : Level) :
    acknowledgedLevel sn q c count now l =
      (let reported := if sn.due[q] then min sn.counts[q] count else l.reported
       let since := if sn.due[q] then (if reported < count then some sn.taken else none) else l.since
       ⟨reported, since, isDue c count ⟨reported, since, false⟩ now⟩) := by
  cases due : sn.due[q] <;> simp only [acknowledgedLevel, due, if_true, if_false, Bool.false_eq_true] <;> rfl

/-! ## Which acknowledgement matches (R144) -/

section
variable {s : State} {sn : Snapshot} {tag : Byte}

theorem noticeAckAct_of_match (awaiting : s.notice.state = .awaitingAck) (snapshot : s.notice.snapshot = some sn)
    (current : tag = s.notice.tag) : noticeAckAct [tag] s = (s.acknowledge sn, [0x00]) := by
  simp only [noticeAckAct, noticeAckArg, awaiting, snapshot, if_pos current]
  rfl

theorem noticeAckAct_of_stale (stale : s.notice.state ≠ .awaitingAck ∨ tag ≠ s.notice.tag) :
    noticeAckAct [tag] s = (s, [0x25]) := by
  simp only [noticeAckAct, noticeAckArg]
  split
  next awaiting _ => exact if_neg (stale.resolve_left (not_not_intro awaiting))
  next => rfl

end

/-- Settles O47: the state and the tag decide whether the acknowledgement matches; what a matching one leaves is
`State.acknowledge_eq`, with the levels queue by queue. -/
theorem noticeAckTakesTheReportedAway : Obligations.NoticeAckTakesTheReportedAway := by
  unfold Obligations.NoticeAckTakesTheReportedAway
  intro s r rest tag starts hkind hbody
  have hlen : bodyLengthOk r = true := by simp [bodyLengthOk, hkind, hbody, requestLength]
  refine ⟨fun sn awaiting snapshot current => ?_, fun stale => ?_⟩
  · intro n
    have act : noticeAckAct r.body s.popRequest = ((s.acknowledge sn).popRequest, [0x00]) :=
      hbody ▸ noticeAckAct_of_match (s := s.popRequest) awaiting snapshot current
    have left : s.lessReported sn = n := by
      simp only [State.lessReported, State.acknowledgedLevels, acknowledgedLevel_eq]
      rfl
    refine (State.request_of_popped_act starts hkind hlen act rfl).trans ?_
    rw [State.acknowledge_eq, left]
    rfl
  · exact State.request_of_reply starts hkind hlen (hbody ▸ noticeAckAct_of_stale (s := s.popRequest) stale)

end Sys2Proof.Machine
end

section
/-! STATUS (R171, R188) and COUNTERS (R173, R174): the STATUS body written out entry by entry, the codes that name a counter
group, one answer for every group, and the obligation about both (O49). -/
namespace Sys2Proof.Machine

/-! ## STATUS -/

/-- The entries of a vector in the order of their numbers. -/
theorem vector_toList_eq_map {α : Type} {k : Nat} (v : Vector α k) : v.toList = (List.finRange k).map (v[·]) := by
  apply List.ext_getElem <;> simp

theorem State.lanes_toList (s : State) : s.lanes.toList = allLanes.map s.lane := vector_toList_eq_map s.lanes

theorem State.queues_toList (s : State) : s.queues.toList = allQueues.map s.queue := vector_toList_eq_map s.queues

/-- The STATUS body with each lane's and each queue's figures read by number (R188). -/
theorem statusBody_eq (s : State) : statusBody s =
    [0x00, s.link.state.code, s.link.mode.code, flagByte s.link.errorFlag] ++
    allLanes.flatMap (fun n => [(s.lane n).state.code] ++ be16 (s.lane n).e ++ be16 (s.lane n).limit ++
      [byteOf (s.lane n).reservation]) ++
    allQueues.flatMap (fun q => be16Nat (s.queue q).list.length ++ be16Nat (s.queue q).charge) ++
    [byteOf s.outstanding] ++ be16Nat s.store.freeDescriptors ++ be16Nat s.store.freeBlocks ++ be16Nat s.reserved ++
    be16 s.classifier.generation ++ [flagByte s.classifier.pendingCommit, s.notice.state.code, s.notice.tag] ++
    (byteOf s.notice.alerts.length :: s.notice.alerts.flatMap fun a => [a.kind.code, byteOf a.count, a.subjects]) := by
  rw [statusBody, State.lanes_toList, State.queues_toList, List.flatMap_map, List.flatMap_map]
  rfl

theorem exec_status_of_starts {s : State} {r : Frame} {rest : List Frame} (starts : Starts s r rest) (hkind : r.kind = 0x58)
    (hbody : r.body = []) : exec .status s = .next (s.replied r (statusBody s)) := by
  have hlen : bodyLengthOk r = true := by simp [bodyLengthOk, hkind, hbody, requestLength]
  exact State.request_of_reply (act := statusAct) starts hkind hlen rfl

/-! ## The codes of a counter group (R173, R187) -/

theorem byteOf_of_toNat (b : Byte) : byteOf b.toNat = b := by simp [byteOf]

theorem byteOf_of_queueNumber {b : Byte} {q : QueueId} (named : queueNumber b = some q) : b = byteOf q.val := by
  obtain ⟨_, entry⟩ := Option.dite_none_right_eq_some.mp named
  obtain rfl := Option.some.inj entry
  exact (byteOf_of_toNat b).symm

/-- The codes name a group exactly as the reply spells it (R187, R188). -/
theorem counterGroup_eq_some_iff {group number : Byte} {g : CounterGroup} :
    counterGroup group number = some g ↔ group = g.code ∧ number = g.number := by
  constructor
  · intro named
    unfold counterGroup at named
    split at named
    case h_1 code =>
      obtain ⟨_, entry⟩ := Option.dite_none_right_eq_some.mp named
      obtain rfl := Option.some.inj entry
      exact ⟨BitVec.eq_of_toNat_eq code, (byteOf_of_toNat number).symm⟩
    case h_2 code =>
      obtain ⟨q, numbered, rfl⟩ := Option.map_eq_some_iff.mp named
      exact ⟨BitVec.eq_of_toNat_eq code, byteOf_of_queueNumber numbered⟩
    case h_3 code | h_4 code =>
      obtain ⟨zero, entry⟩ := Option.ite_none_right_eq_some.mp named
      obtain rfl := Option.some.inj entry
      exact ⟨BitVec.eq_of_toNat_eq code, zero⟩
    case h_5 => cases named
  · rintro ⟨rfl, rfl⟩
    cases g with
    | lane n => revert n; decide
    | queue q => revert q; decide
    | rules => rfl
    | link => rfl

theorem counterGroup_eq_none {group number : Byte} (notLane : ¬(group = 0 ∧ number.toNat < 4))
    (notQueue : ¬(group = 1 ∧ number.toNat < 8)) (notRules : ¬(group = 2 ∧ number = 0))
    (notLink : ¬(group = 3 ∧ number = 0)) : counterGroup group number = none := by
  refine Option.eq_none_iff_forall_ne_some.mpr fun g named => ?_
  obtain ⟨rfl, rfl⟩ := counterGroup_eq_some_iff.mp named
  cases g with
  | lane n => exact notLane ⟨rfl, (byteOf_toNat (by omega)).trans_lt n.isLt⟩
  | queue q => exact notQueue ⟨rfl, (byteOf_toNat (by omega)).trans_lt q.isLt⟩
  | rules => exact notRules ⟨rfl, rfl⟩
  | link => exact notLink ⟨rfl, rfl⟩

/-! ## COUNTERS -/

section
variable {s : State} {r : Frame} {rest : List Frame} {body : List Byte} {group number clear : Byte} {g : CounterGroup}

theorem countersArg_of_bad_flag (flag : 1 < clear.toNat) : countersArg [group, number, clear] = none :=
  if_neg (Nat.not_le_of_lt flag)

theorem countersArg_of_no_group (unnamed : counterGroup group number = none) : countersArg [group, number, clear] = none := by
  simp only [countersArg, unnamed, Option.map_none, ite_self]

theorem countersArg_of_group (named : counterGroup group number = some g) (flag : ¬1 < clear.toNat) :
    countersArg [group, number, clear] = some (g, decide (clear = 1)) := by
  simp only [countersArg, if_pos (Nat.le_of_not_lt flag), named, Option.map_some]

theorem countersAct_of_bad_argument (arg : countersArg body = none) : countersAct body s = (s, [0x20]) := by
  simp only [countersAct, arg]; rfl

theorem countersAct_of_group (arg : countersArg body = some (g, decide (clear = 1))) : countersAct body s =
    (if clear = 1 then s.clearGroup g else s,
      [0x00, g.code, g.number, byteOf (s.groupValues g).length] ++ (s.groupValues g).flatMap be32Nat) := by
  simp only [countersAct, arg, decide_eq_true_eq]; rfl

/-- What a read of a group leaves, cleared or not: the fields that hold its counters (R174). -/
theorem State.ite_clearGroup (s : State) (g : CounterGroup) (asked : Prop) [Decidable asked] :
    (if asked then s.clearGroup g else s) =
      match g with
      | .lane n => { s with lanes := if asked then s.lanes.set n { s.lane n with counters := .zero } else s.lanes }
      | .queue q => { s with queues := if asked then s.queues.set q { s.queue q with counters := .zero } else s.queues }
      | .rules => { s with classifier :=
          if asked then { s.classifier with matches_ := Vector.replicate 32 0, counters := .zero } else s.classifier }
      | .link => { s with link := { s.link with counters := if asked then .zero else s.link.counters } } := by
  cases g <;> split <;> rfl

theorem State.groupValues_popRequest (s : State) (g : CounterGroup) : s.popRequest.groupValues g = s.groupValues g := by
  cases g <;> rfl

theorem State.clearGroup_popRequest (s : State) (g : CounterGroup) :
    s.popRequest.clearGroup g = (s.clearGroup g).popRequest := by
  cases g <;> rfl

theorem bodyLengthOk_of_counters (hkind : r.kind = 0x59) (hbody : r.body = [group, number, clear]) :
    bodyLengthOk r = true := by
  simp [bodyLengthOk, hkind, hbody, requestLength]

theorem exec_counters_of_bad_argument (starts : Starts s r rest) (hkind : r.kind = 0x59)
    (hbody : r.body = [group, number, clear]) (arg : countersArg [group, number, clear] = none) :
    exec .counters s = .next (s.replied r [0x20]) :=
  State.request_of_reply starts hkind (bodyLengthOk_of_counters hkind hbody) (countersAct_of_bad_argument (hbody ▸ arg))

/-- The values are read before the clear, and the answer is placed and counted behind it (R168, R174). -/
theorem exec_counters_of_group (starts : Starts s r rest) (hkind : r.kind = 0x59) (hbody : r.body = [group, number, clear])
    (flag : ¬1 < clear.toNat) (named : group = g.code ∧ number = g.number) :
    exec .counters s = .next ((if clear = 1 then s.clearGroup g else s).replied r
      ([0x00, group, number, byteOf (s.groupValues g).length] ++ (s.groupValues g).flatMap be32Nat)) := by
  obtain ⟨code, numbered⟩ := named
  have act := countersAct_of_group (s := s.popRequest)
    (hbody ▸ countersArg_of_group (counterGroup_eq_some_iff.mpr ⟨code, numbered⟩) flag)
  rw [State.clearGroup_popRequest, State.groupValues_popRequest, ← apply_ite, ← code, ← numbered] at act
  refine (State.request_starts starts hkind (bodyLengthOk_of_counters hkind hbody)).trans ?_
  rw [act, State.finish_eq r _ (if clear = 1 then s.clearGroup g else s) _ rfl]
  rfl

end

/-- Settles O49: STATUS answers its body; COUNTERS goes by the clear flag and by the group its codes name, with one answer for
every group; the orders of the counters and the codes are the model's definitions. -/
theorem statusAndCountersReport : Obligations.StatusAndCountersReport := by
  unfold Obligations.StatusAndCountersReport
  refine ⟨fun s r rest starts hkind hbody => ?_, fun s r rest group number clear starts hkind hbody => ?_,
    ⟨fun _ => rfl, fun _ => rfl, fun _ => rfl, fun _ => rfl⟩, rfl, rfl, rfl, rfl, rfl⟩
  · rw [exec_status_of_starts starts hkind hbody, statusBody_eq]
    rfl
  · intro reply cleared
    split
    next flag => exact exec_counters_of_bad_argument starts hkind hbody (countersArg_of_bad_flag flag)
    next flag =>
      have answered (g : CounterGroup) (named : group = g.code ∧ number = g.number) :=
        exec_counters_of_group starts hkind hbody flag named
      split
      next lane =>
        rw [answered (.lane ⟨number.toNat, lane.2⟩) ⟨lane.1, (byteOf_of_toNat number).symm⟩, State.ite_clearGroup]
        rfl
      next notLane =>
        split
        next queue =>
          rw [answered (.queue ⟨number.toNat, queue.2⟩) ⟨queue.1, (byteOf_of_toNat number).symm⟩, State.ite_clearGroup]
          rfl
        next notQueue =>
          split
          next rules =>
            rw [answered .rules rules, State.ite_clearGroup]
            rfl
          next notRules =>
            split
            next link =>
              rw [answered .link link, State.ite_clearGroup]
              rfl
            next notLink =>
              exact exec_counters_of_bad_argument starts hkind hbody
                (countersArg_of_no_group (counterGroup_eq_none notLane notQueue notRules notLink))

end Sys2Proof.Machine
end

section
/-! What a command can do to the part, said once for every row of the table: each law of the state is then shown to hold after
every command by one case for each effect (R161, R179, R180). -/
namespace Sys2Proof.Machine

/-- What an event or a request of the lanes does (R22 to R68, R10). -/
inductive LaneEffect (s : State) : State → Prop where
  | goodFrame (n : LaneId) (kind : Byte) (body : List Byte) : LaneEffect s (s.laneGoodFrame n kind body)
  | frameFails (n : LaneId) : LaneEffect s (s.laneFrameFails n)
  | restartProbe (n : LaneId) (probing : (s.lane n).state = .probing) : LaneEffect s (s.mapLane n Lane.restartProbe)
  | probeWindowOver (n : LaneId) (probing : (s.lane n).state = .probing) :
    LaneEffect s ((s.mapLane n fun l =>
      ({ l with state := .failed, pendingMissing := 0, timers := .stopped } : Lane).dropWaiting).raise .laneFailed (laneBit n))
  | lost (n : LaneId) (session : (s.lane n).inSession = true) : LaneEffect s (s.loseLane n)
  | closed (n : LaneId) (closing : (s.lane n).state = .closing) : LaneEffect s (s.closingEnd n)
  | refreshed (n : LaneId) (active : (s.lane n).state = .active) : LaneEffect s (s.mapLane n (Lane.dueCredit s.clock))
  | frameSent (n : LaneId) : LaneEffect s (s.mapLane n (Lane.frameSent s.clock))
  | headerDecided (n : LaneId) (length : Half) (seqByte check : Byte) (h : RecordHeader)
    (hunting : (s.lane n).receiver = .hunting) (least : 13 ≤ length.toNat) (most : length.toNat ≤ 260)
    (session : (s.lane n).inSession = true) :
    LaneEffect s ((s.recordBytes n (headerCovered length seqByte h check)).headerDecision n (length.toNat - 2)
      (headerCovered length seqByte h check) h check)
  | headerPassed (n : LaneId) (length : Half) (seqByte check : Byte) (h : RecordHeader)
    (hunting : (s.lane n).receiver = .hunting) (least : 13 ≤ length.toNat) (most : length.toNat ≤ 260)
    (session : (s.lane n).inSession = false) :
    LaneEffect s ((s.recordBytes n (headerCovered length seqByte h check)).receiveRecord n
      (headerCovered length seqByte h check) (length.toNat - 2 - 11) false)
  | shortRecord (n : LaneId) (bytes : List Byte) (good : Bool) (hunting : (s.lane n).receiver = .hunting) :
    LaneEffect s ((s.recordBytes n bytes).shortRecordEnd n good)
  | recordGood (n : LaneId) (covered rest crc : List Byte) (inSession : Bool) (r : Record)
    (receiver : (s.lane n).receiver = .record covered rest.length inSession)
    (assembly : ((s.recordBytes n (covered ++ rest ++ crc)).lane n).assembly = some r) :
    LaneEffect s ((s.recordBytes n (covered ++ rest ++ crc)).recordGood n r)
  | recordBad (n : LaneId) (covered rest crc : List Byte) (inSession : Bool) (r : Record)
    (receiver : (s.lane n).receiver = .record covered rest.length inSession)
    (assembly : ((s.recordBytes n (covered ++ rest ++ crc)).lane n).assembly = some r) :
    LaneEffect s ((s.recordBytes n (covered ++ rest ++ crc)).recordBad n r)
  | frameEnd (n : LaneId) (covered rest crc : List Byte) (inSession good : Bool)
    (receiver : (s.lane n).receiver = .record covered rest.length inSession)
    (assembly : ((s.recordBytes n (covered ++ rest ++ crc)).lane n).assembly = none) :
    LaneEffect s ((s.recordBytes n (covered ++ rest ++ crc)).frameEnd n inSession good)
  | grant : LaneEffect s s.grant
  | laneConfig (body : List Byte) : LaneEffect s (laneConfigAct body s).1
  | laneOpen (body : List Byte) : LaneEffect s (laneOpenAct body s).1
  | laneClose (body : List Byte) : LaneEffect s (laneCloseAct body s).1
  | laneAbort (body : List Byte) : LaneEffect s (laneAbortAct body s).1

/-- What an event or a request of the queues and the outstanding list does (R94 to R135). -/
inductive QueueEffect (s : State) : State → Prop where
  | queueConfig (body : List Byte) : QueueEffect s (queueConfigAct body s).1
  | queuePurge (body : List Byte) : QueueEffect s (queuePurgeAct body s).1
  | fetch (body : List Byte) : QueueEffect s (fetchAct body s).1
  | release (body : List Byte) : QueueEffect s (settleAct releaseHandle body s).1
  | returnHandles (body : List Byte) (fits : requestLength Kind.returnHandles body = some body.length) :
    QueueEffect s (settleAct returnHandle body s).1
  | extend (body : List Byte) : QueueEffect s (settleAct extendHandle body s).1
  | leaseExpired (i : SlotId) (o : Occupant) (occupied : (s.slot i).occupant = some o)
    (due : expired o.deadline s.clock = true) : QueueEffect s (s.expireLease i o)

/-- What an event or a request of the Notice Unit does (R139, R144 to R148). -/
inductive NoticeEffect (s : State) : State → Prop where
  | noticeAck (body : List Byte) : NoticeEffect s (noticeAckAct body s).1
  | noticeConfig (body : List Byte) : NoticeEffect s (noticeConfigAct body s).1
  | renew (awaiting : s.notice.state = .awaitingAck) (due : expired s.notice.renotice s.clock = true) :
    NoticeEffect s { s with notice := s.notice.renew }
  | hold (q : QueueId) (due : expired (holdDeadline (s.queue q).config s.notice.levels[q]) s.clock = true) :
    NoticeEffect s (s.evalDue q)

/-- What the execution of a request does to its block (R161). -/
inductive BlockEffect (s : State) : State → Prop where
  | none : BlockEffect s s
  | lane {t : State} (h : LaneEffect s t) : BlockEffect s t
  | queue {t : State} (h : QueueEffect s t) : BlockEffect s t
  | notice {t : State} (h : NoticeEffect s t) : BlockEffect s t
  | ruleSet (body : List Byte) : BlockEffect s (ruleSetAct body s).1
  | defaultSet (body : List Byte) : BlockEffect s (defaultSetAct body s).1
  | rulesRevert (body : List Byte) : BlockEffect s (rulesRevertAct body s).1
  | linkConfig (body : List Byte) : BlockEffect s (linkConfigAct body s).1
  | clearError (body : List Byte) : BlockEffect s (clearErrorAct body s).1
  | clearGroup (g : CounterGroup) : BlockEffect s (s.clearGroup g)
  | storeReset : BlockEffect s s.storeReset

/-- What a command does to the part. -/
inductive Effect (s : State) : State → Prop where
  | none : Effect s s
  | powerOn (running : Bool) : Effect s (.powerOn s.pending s.lines running s.link.bitRate)
  | lane {t : State} (running : s.running = true) (h : LaneEffect s t) : Effect s t
  | queue {t : State} (running : s.running = true) (h : QueueEffect s t) : Effect s t
  | notice {t : State} (running : s.running = true) (h : NoticeEffect s t) : Effect s t
  | linkError (running : s.running = true) (count : LinkCounters → LinkCounters)
    (counts : (∃ k, count = linkErrorCount k) ∨ count = fun c => { c with gapErrors := bump c.gapErrors }) :
    Effect s (s.linkErrorTaken count)
  | frame (running : s.running = true) (f : Frame) : Effect s (s.frameArrives f)
  | frameSent (running : s.running = true) : Effect s s.frameSent
  | serveNotice (running : s.running = true) : Effect s s.serveNotice
  | answered {t : State} (r : Frame) (rest : List Frame) (body : List Byte) (starts : Starts s r rest)
    (h : BlockEffect s.popRequest t) : Effect s (t.finish r body)
  | commit (r : Frame) (rest : List Frame) (starts : Starts s r rest) : Effect s (s.popRequest.commitRequest r)
  | resetPart (r : Frame) (rest : List Frame) (starts : Starts s r rest) :
    Effect s (({ s.popRequest with link := { s.popRequest.link with resetPending := true } } : State).finishWith
      .resetResponse r [Result.ok])
  | walkEnd (running : s.running = true) (w : Walk) (walk : s.classifier.walk = some w) : Effect s (s.endWalk w)

section
variable {s t : State}

theorem Effect.of_event {f : State → State} (h : s.event f = .next t) (hf : s.running = true → Effect s (f s)) :
    Effect s t :=
  State.event_keeps (P := Effect s) .none hf h

theorem Effect.of_withRequest {row : Frame → Bool} {act : Frame → State → State}
    (hact : ∀ r rest, Starts s r rest → row r = true → requestLength r.kind r.body = some r.body.length →
      Effect s (act r s.popRequest)) : Effect s (s.withRequest row act) := by
  unfold State.withRequest
  split
  · rename_i r starts
    obtain ⟨rest, starts⟩ := (State.startable_iff s r).1 starts
    split
    · split
      · rename_i isRow fits
        exact hact r rest starts isRow (of_decide_eq_true fits)
      · exact .answered r rest _ starts .none
    · exact .none
  · exact .none

theorem Effect.of_request {kind : Byte} {act : List Byte → State → State × List Byte} (h : s.request kind act = .next t)
    (hact : ∀ body u, requestLength kind body = some body.length → BlockEffect u (act body u).1) : Effect s t := by
  simp only [State.request, Host.Outcome.next.injEq] at h
  subst h
  refine .of_withRequest fun r rest starts isRow fits => .answered r rest _ starts (hact r.body _ ?_)
  rwa [← of_decide_eq_true isRow]

theorem BlockEffect.counters (body : List Byte) (s : State) : BlockEffect s (countersAct body s).1 := by
  unfold countersAct
  split
  · exact .none
  · dsimp only
    split
    · exact .clearGroup _
    · exact .none

theorem Effect.recordHeader {n : LaneId} {length : Half} {seqByte check : Byte} {h : RecordHeader}
    (he : execRecordHeader n length seqByte h check s = .next t) : Effect s t := by
  refine .of_event he fun running => ?_
  dsimp only
  split
  · exact .none
  · rename_i fits
    simp only [not_or, not_lt, not_not] at fits
    obtain ⟨hunting, least, most⟩ := fits
    split
    · exact .lane running (.headerDecided n length seqByte check h hunting least most ‹_›)
    · exact .lane running (.headerPassed n length seqByte check h hunting least most (Bool.eq_false_of_not_eq_true ‹_›))

theorem Effect.recordEnd {n : LaneId} {rest : List Byte} {crc : Half} (he : execRecordEnd n rest crc s = .next t) :
    Effect s t := by
  refine .of_event he fun running => ?_
  dsimp only
  cases receiver : (s.lane n).receiver with
  | hunting =>
    dsimp only
    split
    · exact .lane running (.shortRecord n _ _ receiver)
    · exact .none
  | record covered remaining inSession =>
    dsimp only
    split
    · exact .none
    · rename_i hlen
      have receiver := not_not.mp hlen ▸ receiver
      cases assembly : ((s.recordBytes n (covered ++ rest ++ be16 crc)).lane n).assembly with
      | none => exact .lane running (.frameEnd n covered rest _ inSession _ receiver assembly)
      | some r =>
        dsimp only
        split
        · exact .lane running (.recordGood n covered rest _ inSession r receiver assembly)
        · exact .lane running (.recordBad n covered rest _ inSession r receiver assembly)

/-- An event under a guard that does not hold leaves the part as it is. -/
theorem Effect.guarded {c : Prop} [Decidable c] {u : State} (h : c → Effect s u) : Effect s (if c then u else s) := by
  split
  · exact h ‹_›
  · exact .none

end

/-- Every command but the release of RESETN has one of the effects above. -/
theorem exec_effect {i : Instr} {s t : State} (notRelease : ∀ b1 b0, i ≠ .resetnRelease b1 b0) (h : exec i s = .next t) :
    Effect s t := by
  unfold exec at h
  cases i with
  | resetnAssert => cases h; exact .powerOn _
  | resetnRelease b1 b0 => exact absurd rfl (notRelease b1 b0)
  | controlFrameReceived => exact .of_event h fun running => .frame running _
  | sync => exact .of_event h fun running => .frame running _
  | linkError k => exact .of_event h fun running => .linkError running _ (.inl ⟨k, rfl⟩)
  | gapError => exact .of_event h fun running => .guarded fun _ => .linkError running _ (.inr rfl)
  | ident => exact .of_request h fun _ _ _ => .none
  | linkConfig => exact .of_request h fun body _ _ => .linkConfig body
  | clearError => exact .of_request h fun body _ _ => .clearError body
  | unknownRequest =>
    cases h
    split
    · rename_i r starts
      obtain ⟨rest, starts⟩ := (State.startable_iff s r).1 starts
      split
      · exact .none
      · exact .answered r rest _ starts .none
    · exact .none
  | laneConfig => exact .of_request h fun body _ _ => .lane (.laneConfig body)
  | laneOpen => exact .of_request h fun body _ _ => .lane (.laneOpen body)
  | laneClose => exact .of_request h fun body _ _ => .lane (.laneClose body)
  | laneAbort => exact .of_request h fun body _ _ => .lane (.laneAbort body)
  | ruleSet => exact .of_request h fun body _ _ => .ruleSet body
  | ruleGet =>
    refine .of_request h fun body u _ => ?_
    unfold ruleGetAct
    split <;> exact .none
  | defaultSet => exact .of_request h fun body _ _ => .defaultSet body
  | rulesCommit => cases h; exact .of_withRequest fun r rest starts _ _ => .commit r rest starts
  | rulesRevert => exact .of_request h fun body _ _ => .rulesRevert body
  | queueConfig => exact .of_request h fun body _ _ => .queue (.queueConfig body)
  | queueGet =>
    refine .of_request h fun body u _ => ?_
    unfold queueGetAct
    split <;> exact .none
  | queuePurge => exact .of_request h fun body _ _ => .queue (.queuePurge body)
  | fetch => exact .of_request h fun body _ _ => .queue (.fetch body)
  | release => exact .of_request h fun body _ _ => .queue (.release body)
  | returnHandles => exact .of_request h fun body _ fits => .queue (.returnHandles body fits)
  | extend => exact .of_request h fun body _ _ => .queue (.extend body)
  | noticeAck => exact .of_request h fun body _ _ => .notice (.noticeAck body)
  | noticeConfig => exact .of_request h fun body _ _ => .notice (.noticeConfig body)
  | status => exact .of_request h fun _ _ _ => .none
  | counters => exact .of_request h fun body u _ => .counters body u
  | resetPart =>
    cases h
    refine .of_withRequest fun r rest starts _ _ => ?_
    unfold resetPartRequest
    split
    · exact .resetPart r rest starts
    · exact .answered r rest _ starts .none
  | partResetEffect => exact .of_event h fun _ => .guarded fun _ => .powerOn true
  | resetStore =>
    cases h
    refine .of_withRequest fun r rest starts _ _ => ?_
    unfold resetStoreRequest
    split
    · exact .answered r rest _ starts .storeReset
    · exact .answered r rest _ starts .none
  | controlFrameSent => exact .of_event h .frameSent
  | noticeBegin => exact .of_event h .serveNotice
  | renoticeExpiry => exact .of_event h fun running => .guarded fun due => .notice running (.renew due.1 due.2)
  | holdExpiry q => exact .of_event h fun running => .guarded fun due => .notice running (.hold q due)
  | laneBadFrame n => exact .of_event h fun running => .lane running (.frameFails n)
  | laneCharGapExpiry n => exact .of_event h fun running => .guarded fun _ => .lane running (.frameFails n)
  | echo n => exact .of_event h fun running => .lane running (.goodFrame n _ _)
  | keepalive n => exact .of_event h fun running => .lane running (.goodFrame n _ _)
  | sourceClose n => exact .of_event h fun running => .lane running (.goodFrame n _ _)
  | closeAck n => exact .of_event h fun running => .lane running (.goodFrame n _ _)
  | laneProtocolError n => exact .of_event h fun running => .lane running (.goodFrame n _ _)
  | probeIntervalExpiry n => exact .of_event h fun running => .guarded fun due => .lane running (.restartProbe n due.1)
  | probeWindowExpiry n => exact .of_event h fun running => .guarded fun due => .lane running (.probeWindowOver n due.1)
  | laneFrameSent n => exact .of_event h fun running => .lane running (.frameSent n)
  | recordHeader => exact .recordHeader h
  | recordEnd => exact .recordEnd h
  | silenceExpiry n => exact .of_event h fun running => .guarded fun due => .lane running (.lost n due.1)
  | closeTimerExpiry n => exact .of_event h fun running => .guarded fun due => .lane running (.closed n due.1)
  | creditRefreshExpiry n => exact .of_event h fun running => .guarded fun due => .lane running (.refreshed n due.1)
  | creditGrant => exact .of_event h fun running => .lane running .grant
  | walkEnd =>
    refine .of_event h fun running => ?_
    cases walk : s.classifier.walk with
    | none => exact .none
    | some w => exact .walkEnd running w walk
  | leaseExpiry i =>
    refine .of_event h fun running => ?_
    cases occupied : (s.slot i).occupant with
    | none => exact .none
    | some o =>
      dsimp only
      split
      · exact .queue running (.leaseExpired i o occupied ‹_›)
      · exact .none

/-- A law holds after every command when it holds at power-on and after each effect. -/
theorem exec_keeps {P : State → Prop} (powerOn : ∀ pending lines running rate, P (.powerOn pending lines running rate))
    {i : Instr} {s t : State} (effect : ∀ t, Effect s t → P t) (h : exec i s = .next t) : P t := by
  by_cases release : ∃ b1 b0, i = .resetnRelease b1 b0
  · obtain ⟨b1, b0, rfl⟩ := release
    cases h
    exact powerOn _ _ _ _
  · exact effect t (exec_effect (fun b1 b0 e => release ⟨b1, b0, e⟩) h)

end Sys2Proof.Machine
end

section
/-! What becomes of one lane (R22 to R68): the steps by which a lane changes, and the chain of them that each effect on the
lanes is. A law that speaks of each lane by itself is then shown step by step. -/
namespace Sys2Proof.Machine

/-- No counter of the lane exceeds its 32 bits. -/
def LaneCounters.InRange (c : LaneCounters) : Prop := ∀ v ∈ c.values, v ≤ 4294967295

@[simp] theorem LaneCounters.inRange_iff (c : LaneCounters) : c.InRange ↔
    c.framesBad ≤ 4294967295 ∧ c.protocolErrors ≤ 4294967295 ∧ c.probeRetries ≤ 4294967295 ∧
    c.recordsAccepted ≤ 4294967295 ∧ c.duplicates ≤ 4294967295 ∧ c.overruns ≤ 4294967295 ∧ c.malformed ≤ 4294967295 ∧
    c.headerCheckErrors ≤ 4294967295 ∧ c.crcErrors ≤ 4294967295 ∧ c.missingTotal ≤ 4294967295 := by
  simp [LaneCounters.InRange, LaneCounters.values]

@[simp] theorem bumpBy_le (d n : Nat) : bumpBy d n ≤ 4294967295 := Nat.min_le_right _ _

@[simp] theorem bump_le (n : Nat) : bump n ≤ 4294967295 := Nat.min_le_right _ _

@[simp] theorem addMissing_le (n d : Nat) : addMissing n d ≤ 65535 := Nat.min_le_right _ _

/-- The lane assembles nothing behind its header decision: a frame of it that ends ends no assembly. -/
def Lane.Idle (l : Lane) : Prop := l.receiver = .hunting ∨ l.assembly = none

/-- One change of a lane that neither begins nor ends an assembly. -/
inductive Lane.Step (now : Nat) (l : Lane) : Lane → Prop where
  | enterProbing : Lane.Step now l (l.enterProbing now)
  | bad (idle : l.Idle) : Lane.Step now l { l with
      consecutiveBad := satAdd 255 l.consecutiveBad 1
      counters := { l.counters with framesBad := bump l.counters.framesBad }
      receiver := .hunting
      reception := l.reception.rehunt }
  | good (idle : l.Idle) : Lane.Step now l (l.goodFrame now)
  | count (f : LaneCounters → LaneCounters) (range : ∀ c : LaneCounters, c.InRange → (f c).InRange) : Lane.Step now l (l.count f)
  | activate (next : Half) : Lane.Step now l (({ l with
      state := .active
      e := next
      limit := next - 1
      lastSent := next - 1
      pendingMissing := 0
      consecutiveBad := 0
      timers := { LaneTimers.stopped with
        silence := some (now + 1000 * l.config.silenceTimeout)
        refresh := some (now + 50000) } } : Lane).dropWaiting)
  | probeOn (k : Fin 4) : Lane.Step now l
      (({ l with awaited := l.awaited + 1, timers := { l.timers with probeInterval := none } } : Lane).dueProbe k)
  | restartProbe : Lane.Step now l l.restartProbe
  | makeDue (f : LaneFrame) : Lane.Step now l (l.makeDue f)
  | advance (next : Half) (d : Nat) : Lane.Step now l { l with
      e := next
      pendingMissing := addMissing l.pendingMissing d
      counters := { l.counters with missingTotal := bumpBy d l.counters.missingTotal } }
  | dueCredit (active : l.state = .active) : Lane.Step now l (l.dueCredit now)
  | credit : Lane.Step now l { l with limit := l.limit + 1 }
  | receive (covered : List Byte) (remaining : Nat) (inSession : Bool) (idle : l.Idle) :
    Lane.Step now l { l with receiver := .record covered remaining inSession }
  | hunt (empty : l.assembly = none) : Lane.Step now l { l with receiver := .hunting }
  | gather (reception : Reception) : Lane.Step now l ({ l with reception := reception } : Lane).storePayload
  | config (c : LaneConfig) (range : c.inRange = true) : Lane.Step now l { l with config := c }
  | enterClosing (active : l.state = .active) : Lane.Step now l ((({ l with
      state := .closing
      lastSent := l.limit
      timers := { l.timers with refresh := none, close := some (now + 1000 * l.config.closeTimeout) } } :
      Lane).dropWaiting).makeDue (.close l.limit))
  | fail : Lane.Step now l (({ l with state := .failed, pendingMissing := 0, timers := .stopped } : Lane).dropWaiting)
  | frameSent : Lane.Step now l (l.frameSent now)
  | stopWaiting : Lane.Step now l { l with waiting := [] }

/-- One change of a lane that ends its assembly, if there is one, and its record with it (R15). -/
inductive Lane.Drop (l : Lane) : Lane → Prop where
  | down : Lane.Drop l l.toDown
  | bad : Lane.Drop l { l with
      assembly := none
      pendingMissing := addMissing l.pendingMissing 1
      counters := { l.counters with
        crcErrors := bump l.counters.crcErrors
        missingTotal := bump l.counters.missingTotal } }

/-- The lane whose assembly has come to its good end verdict (R60). -/
def Lane.recorded (now : Nat) (l : Lane) : Lane :=
  (({ l with assembly := none, receiver := .hunting } : Lane).goodFrame now).count fun c =>
    { c with recordsAccepted := bump c.recordsAccepted }

/-- One change that an effect on the lanes is made of. -/
inductive LaneFlow (s : State) : State → Prop where
  | step (n : LaneId) (l : Lane) (h : Lane.Step s.clock (s.lane n) l) : LaneFlow s (s.setLane n l)
  | drop (n : LaneId) (l : Lane) (h : Lane.Drop (s.lane n) l) :
    LaneFlow s { s with lanes := s.lanes.set n l, store := s.store.freed (s.lane n).assembly }
  | recorded (n : LaneId) (covered rest crc : List Byte) (inSession : Bool) (r : Record)
    (receiver : (s.lane n).receiver = .record covered rest.length inSession)
    (bytes : (s.lane n).reception.bytes = covered ++ rest ++ crc) (assembly : (s.lane n).assembly = some r) :
    LaneFlow s { s.setLane n ((s.lane n).recorded s.clock) with
      classifier := s.classifier.join s.clock { r with arrival := some s.timebase } }
  | raise (kind : AlertKind) (subject : Byte) : LaneFlow s (s.raise kind subject)
  | pointer (n : LaneId) : LaneFlow s { s with store := { s.store with pointer := n } }

theorem State.mapLane_mapLane (s : State) (n : LaneId) (f g : Lane → Lane) :
    (s.mapLane n f).mapLane n g = s.mapLane n fun l => g (f l) :=
  State.mapLane_setLane s n _ g

theorem State.setLane_lane (s : State) (n : LaneId) : s.setLane n (s.lane n) = s := by
  simp [State.setLane, State.lane]

/-- An effect on the lanes as a chain of changes. -/
abbrev LaneChain : State → State → Prop := Relation.ReflTransGen LaneFlow

namespace LaneChain

variable {a s : State} {n : LaneId}

theorem step {l : Lane} (h : LaneChain a s) (hl : Lane.Step s.clock (s.lane n) l) : LaneChain a (s.setLane n l) :=
  h.tail (.step n l hl)

theorem raise {k b} (h : LaneChain a s) : LaneChain a (s.raise k b) := h.tail (.raise k b)

theorem count {f : LaneCounters → LaneCounters} (h : LaneChain a s) (range : ∀ c : LaneCounters, c.InRange → (f c).InRange) :
    LaneChain a (s.mapLane n (Lane.count f)) := h.step (.count f range)

theorem endSession (h : LaneChain a s) : LaneChain a (s.endSession n) := by
  rw [State.endSession_eq]
  exact h.tail (.drop n _ .down)

theorem closingEnd (h : LaneChain a s) : LaneChain a (s.closingEnd n) := h.endSession.raise

theorem checkWindow (h : LaneChain a s) : LaneChain a (s.checkWindow n) := by
  unfold State.checkWindow
  dsimp only
  split
  · exact h.closingEnd
  · exact h

theorem loseLane (h : LaneChain a s) : LaneChain a (s.loseLane n) := by
  unfold State.loseLane
  dsimp only
  split
  · exact h.endSession.raise.step .enterProbing
  · exact h.endSession.raise

theorem badFrame (h : LaneChain a s) (idle : (s.lane n).Idle) : LaneChain a (s.badFrame n) := by
  unfold State.badFrame
  dsimp only
  split
  · exact (h.step (.bad idle)).loseLane
  · exact h.step (.bad idle)

theorem recordBad {r : Record} (h : LaneChain a s) (assembly : (s.lane n).assembly = some r) :
    LaneChain a (s.recordBad n r) := by
  have dropped : LaneChain a _ := h.tail (.drop n _ .bad)
  rw [assembly] at dropped
  refine checkWindow (badFrame dropped (.inr ?_))
  show ((s.setLane n _).lane n).assembly = none
  rw [State.lane_setLane, if_pos rfl]

theorem laneFrameFails (h : LaneChain a s) : LaneChain a (s.laneFrameFails n) := by
  unfold State.laneFrameFails
  split
  · exact h.recordBad ‹_›
  · rename_i other
    refine h.badFrame ?_
    cases receiver : (s.lane n).receiver with
    | hunting => exact .inl receiver
    | record covered remaining inSession =>
      refine .inr (Option.eq_none_iff_forall_ne_some.2 fun r => ?_)
      exact fun assembly => other covered remaining inSession r receiver assembly

theorem good (h : LaneChain a s) (idle : (s.lane n).Idle) : LaneChain a (s.mapLane n (Lane.goodFrame s.clock)) :=
  h.step (.good idle)

theorem goodFrame_receiver (now : Nat) (l : Lane) : (l.goodFrame now).receiver = l.receiver := by
  rw [Lane.goodFrame_eq]; rfl

theorem protocolError (h : LaneChain a s) (idle : (s.lane n).Idle) : LaneChain a (s.protocolError n) := by
  have counted := (h.good idle).count (n := n) (f := fun c => { c with protocolErrors := bump c.protocolErrors })
    fun c hc => by simp_all
  rwa [State.mapLane_mapLane] at counted

theorem activate {next : Half} (h : LaneChain a s) : LaneChain a (s.activate n next) := (h.step (.activate next)).raise

theorem probeEcho {index : Byte} {pattern : List Byte} {next : Half} (h : LaneChain a s) (idle : (s.lane n).Idle) :
    LaneChain a (s.probeEcho n index pattern next) := by
  unfold State.probeEcho
  dsimp only
  split
  · split
    · exact (h.good idle).activate
    · exact (h.good idle).step (.probeOn _)
  · exact (h.good idle).step .restartProbe

theorem closeFromSource (h : LaneChain a s) (idle : (s.lane n).Idle) : LaneChain a (s.closeFromSource n) := by
  have made := (h.good idle).step (n := n) (.makeDue .closeAck)
  refine closingEnd ?_
  rwa [← State.mapLane_mapLane]

theorem testCreditAfterE {f : Lane → Lane} (h : LaneChain a (s.mapLane n f)) :
    LaneChain a (s.mapLane n fun l => (f l).testCreditAfterE s.clock) := by
  by_cases due : (f (s.lane n)).state = .active ∧ (f (s.lane n)).exhausted = true
  · have sent := h.step (n := n) (l := (f (s.lane n)).dueCredit s.clock) (by
      rw [State.lane_mapLane_same]; exact .dueCredit due.1)
    rw [show (s.mapLane n f).setLane n ((f (s.lane n)).dueCredit s.clock) = _ from
      State.mapLane_setLane s n _ fun _ => (f (s.lane n)).dueCredit s.clock] at sent
    simpa only [State.mapLane, Lane.testCreditAfterE, if_pos due] using sent
  · simpa only [State.mapLane, Lane.testCreditAfterE, if_neg due] using h

theorem takeKeepalive {next : Half} (h : LaneChain a s) (idle : (s.lane n).Idle) : LaneChain a (s.takeKeepalive n next) := by
  unfold State.takeKeepalive
  dsimp only
  split
  · exact checkWindow (testCreditAfterE ((h.good idle).step (.advance next _)))
  · split
    · exact h.good idle
    · exact (h.good idle).count fun c hc => by simp_all

theorem laneGoodFrame {kind : Byte} {body : List Byte} (h : LaneChain a s) : LaneChain a (s.laneGoodFrame n kind body) := by
  unfold State.laneGoodFrame
  dsimp only
  split
  · exact h
  · rename_i hunting
    have idle : (s.lane n).Idle := .inl (not_not.mp hunting)
    split
    case isTrue =>
      split
      · split
        · exact h.probeEcho idle
        · exact h.protocolError idle
      · exact h.protocolError idle
    split
    case isTrue =>
      split
      · split
        · exact h.takeKeepalive idle
        · exact h.protocolError idle
      · exact h.protocolError idle
    split
    case isTrue =>
      split
      · exact h.closeFromSource idle
      · exact h.protocolError idle
    split
    case isTrue =>
      split
      · exact h.protocolError idle
      · cases (s.lane n).state with
        | down => exact h.good idle
        | closing => exact (h.good idle).closingEnd
        | probing | active | failed => exact h.protocolError idle
    split
    case isTrue =>
      split
      · exact h
      · exact h.protocolError idle
    exact h.protocolError idle

/-! ### RECORD frames -/

theorem recordBytes {bytes : List Byte} (h : LaneChain a s) : LaneChain a (s.recordBytes n bytes) :=
  h.step (.gather _)

theorem receiveRecord {covered : List Byte} {remaining : Nat} {inSession : Bool} (h : LaneChain a s)
    (idle : (s.lane n).Idle) : LaneChain a (s.receiveRecord n covered remaining inSession) :=
  h.step (.receive covered remaining inSession idle)

theorem shortRecordEnd {good : Bool} (h : LaneChain a s) (hunting : (s.lane n).receiver = .hunting) :
    LaneChain a (s.shortRecordEnd n good) := by
  unfold State.shortRecordEnd
  split
  · split
    · have counted := (h.good (.inl hunting)).count (n := n) (f := fun c => { c with malformed := bump c.malformed })
        fun c hc => by simp_all
      rwa [State.mapLane_mapLane] at counted
    · exact h.protocolError (.inl hunting)
  · exact h.badFrame (.inl hunting)

theorem frameEnd {inSession good : Bool} (h : LaneChain a s) (empty : (s.lane n).assembly = none) :
    LaneChain a (s.frameEnd n inSession good) := by
  have hunts := h.step (n := n) (.hunt empty)
  have idle : ((s.setLane n { s.lane n with receiver := .hunting }).lane n).Idle :=
    .inl (by rw [State.lane_setLane, if_pos rfl])
  unfold State.frameEnd
  dsimp only
  split
  · split
    · exact hunts.good idle
    · exact hunts.protocolError idle
  · exact h.badFrame (.inr empty)

theorem recordGood {covered rest crc : List Byte} {inSession : Bool} {r : Record} (h : LaneChain a s)
    (receiver : (s.lane n).receiver = .record covered rest.length inSession)
    (bytes : (s.lane n).reception.bytes = covered ++ rest ++ crc) (assembly : (s.lane n).assembly = some r) :
    LaneChain a (s.recordGood n r) :=
  checkWindow (h.tail (.recorded n covered rest crc inSession r receiver bytes assembly))

/-! ### The credit allocator -/

theorem testCreditAfterGrant {f : Lane → Lane} (h : LaneChain a (s.mapLane n f)) :
    LaneChain a (s.mapLane n fun l => (f l).testCreditAfterGrant s.clock) := by
  by_cases due : (f (s.lane n)).state = .active ∧ ((f (s.lane n)).stepReached || (f (s.lane n)).exhausted) = true
  · have sent := h.step (n := n) (l := (f (s.lane n)).dueCredit s.clock) (by
      rw [State.lane_mapLane_same]; exact .dueCredit due.1)
    rw [show (s.mapLane n f).setLane n ((f (s.lane n)).dueCredit s.clock) = _ from
      State.mapLane_setLane s n _ fun _ => (f (s.lane n)).dueCredit s.clock] at sent
    simpa only [State.mapLane, Lane.testCreditAfterGrant, if_pos due] using sent
  · simpa only [State.mapLane, Lane.testCreditAfterGrant, if_neg due] using h

theorem grant (h : LaneChain a s) : LaneChain a s.grant := by
  unfold State.grant
  split
  · rename_i m _
    exact (testCreditAfterGrant (n := m) (h.step .credit)).tail (.pointer (m + 1))
  · exact h

theorem grantMany {k : Nat} (h : LaneChain a s) : LaneChain a (s.grantMany k) := by
  induction k generalizing s with
  | zero => exact h
  | succ k ih => exact ih h.grant

/-! ### Lane requests -/

/-- One change after another over a list of lanes. -/
theorem foldl {ι : Type} {act : State → ι → State} (hact : ∀ i s, LaneChain a s → LaneChain a (act s i)) {items : List ι}
    (h : LaneChain a s) : LaneChain a (items.foldl act s) := by
  induction items generalizing s with
  | nil => exact h
  | cons i rest ih => exact ih (hact i s h)

theorem laneConfigAct {body : List Byte} (h : LaneChain a s) : LaneChain a (Machine.laneConfigAct body s).1 := by
  unfold Machine.laneConfigAct
  split
  · exact h
  · split
    · exact h
    · exact h.foldl fun m u hu => hu.step (.config _ (laneConfigArg_inRange ‹_›))

theorem laneOpenAct {body : List Byte} (h : LaneChain a s) : LaneChain a (Machine.laneOpenAct body s).1 := by
  unfold Machine.laneOpenAct
  split
  · exact h
  · split
    · exact h
    · exact h.foldl fun m u hu => hu.step .enterProbing

theorem enterClosing (h : LaneChain a s) (active : (s.lane n).state = .active) : LaneChain a (s.enterClosing n) :=
  checkWindow (h.step (.enterClosing active))

theorem closeLane (h : LaneChain a s) : LaneChain a (Machine.closeLane n s).1 := by
  unfold Machine.closeLane
  split
  · exact h.enterClosing ‹_›
  · exact h.endSession
  all_goals exact h

theorem abortLane (h : LaneChain a s) : LaneChain a (Machine.abortLane n s).1 := by
  have ended : LaneChain a ((s.endSession n).mapLane n fun l => { l with waiting := [] }) := h.endSession.step .stopWaiting
  unfold Machine.abortLane
  dsimp only
  split
  · exact h
  · dsimp only
    split
    · exact ended.raise
    · exact ended

theorem eachLane {act : LaneId → State → State × Byte} (hact : ∀ m u, LaneChain a u → LaneChain a (act m u).1)
    {lanes : List LaneId} (h : LaneChain a s) : LaneChain a (eachItem act lanes s).1 :=
  State.eachItem_keeps hact h

theorem laneCloseAct {body : List Byte} (h : LaneChain a s) : LaneChain a (Machine.laneCloseAct body s).1 := by
  unfold Machine.laneCloseAct
  split
  · exact h
  · exact h.eachLane fun m u hu => hu.closeLane

theorem laneAbortAct {body : List Byte} (h : LaneChain a s) : LaneChain a (Machine.laneAbortAct body s).1 := by
  unfold Machine.laneAbortAct
  split
  · exact h
  · exact h.eachLane fun m u hu => hu.abortLane

end LaneChain

/-! ## The effects on the lanes -/

/-- The header of a RECORD frame has been accepted (R54, R55): the window holds its number, and its payload is at most 240
bytes. -/
structure Accepts (s : State) (n : LaneId) (covered : List Byte) (h : RecordHeader) (d : Nat) (t : State) : Prop where
  hunting : (s.lane n).receiver = .hunting
  session : (s.lane n).inSession = true
  shape : covered.length = 15
  payload : h.payloadLength.toNat ≤ 240
  window : windowCase (s.lane n).e (s.lane n).reservation h.seq = .inOrder ∧ d = 0 ∨
    windowCase (s.lane n).e (s.lane n).reservation h.seq = .gap d
  next : t = ((s.recordBytes n covered).receiveRecord n covered h.payloadLength.toNat true).acceptHeader n h d

theorem State.recordBytes_lane (s : State) (n : LaneId) (bytes : List Byte) :
    (s.recordBytes n bytes).lane n = ((s.lane n).gathered bytes s.clock).payloadStored := by
  rw [State.recordBytes_eq, State.lane_set]

theorem Lane.gathered_receiver (l : Lane) (bytes : List Byte) (now : Nat) : (l.gathered bytes now).receiver = l.receiver := by
  unfold Lane.gathered; split <;> rfl

theorem Lane.payloadStored_receiver (l : Lane) : l.payloadStored.receiver = l.receiver := by
  rw [← Lane.storePayload_eq, Lane.storePayload_receiver]

theorem Lane.payloadStored_reception (l : Lane) : l.payloadStored.reception = l.reception := by
  rw [← Lane.storePayload_eq, Lane.storePayload_reception]

@[simp] theorem State.recordBytes_receiver (s : State) (n : LaneId) (bytes : List Byte) :
    ((s.recordBytes n bytes).lane n).receiver = (s.lane n).receiver := by
  rw [State.recordBytes_lane, Lane.payloadStored_receiver, Lane.gathered_receiver]

@[simp] theorem State.recordBytes_bytes (s : State) (n : LaneId) (bytes : List Byte) :
    ((s.recordBytes n bytes).lane n).reception.bytes = bytes := by
  rw [State.recordBytes_lane, Lane.payloadStored_reception, Lane.gathered_bytes]

/-- The bytes of a frame leave the lane's window as it is. -/
theorem State.recordBytes_sameWindow (s : State) (n : LaneId) (bytes : List Byte) :
    (s.lane n).SameWindow ((s.recordBytes n bytes).lane n) := by
  rw [State.recordBytes_lane]
  unfold Lane.gathered Lane.payloadStored
  split <;> split <;> exact ⟨rfl, rfl, rfl, rfl⟩

/-- The header decision of a frame that has just come to it is a chain of changes, or it accepts the header. -/
theorem LaneChain.headerDecision {a s : State} {n : LaneId} {length : Half} {seqByte check : Byte} {h : RecordHeader}
    (hc : LaneChain a (s.recordBytes n (headerCovered length seqByte h check))) (hunting : (s.lane n).receiver = .hunting)
    (least : 13 ≤ length.toNat) (session : (s.lane n).inSession = true) :
    let t := (s.recordBytes n (headerCovered length seqByte h check)).headerDecision n (length.toNat - 2)
      (headerCovered length seqByte h check) h check
    LaneChain a t ∨ ∃ d, Accepts s n (headerCovered length seqByte h check) h d t := by
  have hunts : ((s.recordBytes n (headerCovered length seqByte h check)).lane n).receiver = .hunting := by
    rw [State.recordBytes_receiver, hunting]
  have received := hc.receiveRecord (covered := headerCovered length seqByte h check) (remaining := length.toNat - 2 - 11)
    (inSession := true) (.inl hunts)
  dsimp only
  unfold State.headerDecision
  split
  · refine .inl ((hc.count fun c hc => by simp_all).badFrame (.inl ?_))
    rw [State.lane_mapLane_same]; exact hunts
  · dsimp only
    split
    · exact .inl (received.count fun c hc => by simp_all)
    · rename_i fits
      simp only [not_or, not_lt, not_not] at fits
      have accepts : ∀ d, (windowCase (s.lane n).e (s.lane n).reservation h.seq = .inOrder ∧ d = 0 ∨
          windowCase (s.lane n).e (s.lane n).reservation h.seq = .gap d) →
          Accepts s n (headerCovered length seqByte h check) h d _ := fun d window =>
        ⟨hunting, session, (LanesHeldBut.headerCovered_shape length seqByte h check).1, fits.1, window, rfl⟩
      rw [show length.toNat - 2 - 11 = h.payloadLength.toNat by omega] at received ⊢
      have same : (s.lane n).SameWindow (((s.recordBytes n (headerCovered length seqByte h check)).receiveRecord n
          (headerCovered length seqByte h check) h.payloadLength.toNat true).lane n) := by
        refine (State.recordBytes_sameWindow s n (headerCovered length seqByte h check)).trans ?_
        unfold State.receiveRecord
        rw [State.lane_mapLane_same]
        exact ⟨rfl, rfl, rfl, rfl⟩
      rw [same.2.1, same.reservation]
      cases window : windowCase (s.lane n).e (s.lane n).reservation h.seq with
      | inOrder => exact .inr ⟨0, accepts 0 (.inl ⟨window, rfl⟩)⟩
      | gap d => exact .inr ⟨d, accepts d (.inr window)⟩
      | overrun => exact .inl (received.count fun c hc => by simp_all)
      | duplicate => exact .inl (received.count fun c hc => by simp_all)

/-- Every effect on the lanes but an accepted header is a chain of changes. -/
theorem LaneEffect.chain {s t : State} (h : LaneEffect s t) :
    LaneChain s t ∨ ∃ n covered x d, Accepts s n covered x d t := by
  have start : LaneChain s s := .refl
  cases h with
  | headerDecided n length seqByte check x hunting least most session =>
    refine (start.recordBytes.headerDecision hunting least session).imp_right ?_
    exact fun ⟨d, accepted⟩ => ⟨n, _, x, d, accepted⟩
  | goodFrame => exact .inl start.laneGoodFrame
  | frameFails => exact .inl start.laneFrameFails
  | restartProbe => exact .inl (start.step .restartProbe)
  | probeWindowOver => exact .inl (start.step .fail).raise
  | lost => exact .inl start.loseLane
  | closed => exact .inl start.closingEnd
  | refreshed n active => exact .inl (start.step (.dueCredit active))
  | frameSent => exact .inl (start.step .frameSent)
  | headerPassed n length seqByte check x hunting =>
    exact .inl (start.recordBytes.receiveRecord (.inl (by rwa [State.recordBytes_receiver])))
  | shortRecord n bytes good hunting =>
    exact .inl (start.recordBytes.shortRecordEnd (by rwa [State.recordBytes_receiver]))
  | recordGood n covered rest crc inSession r receiver assembly =>
    exact .inl (start.recordBytes.recordGood (by rwa [State.recordBytes_receiver]) (State.recordBytes_bytes _ _ _) assembly)
  | recordBad n covered rest crc inSession r receiver assembly => exact .inl (start.recordBytes.recordBad assembly)
  | frameEnd n covered rest crc inSession good receiver assembly => exact .inl (start.recordBytes.frameEnd assembly)
  | grant => exact .inl start.grant
  | laneConfig => exact .inl start.laneConfigAct
  | laneOpen => exact .inl start.laneOpenAct
  | laneClose => exact .inl start.laneCloseAct
  | laneAbort => exact .inl start.laneAbortAct

end Sys2Proof.Machine
end

section
/-! What becomes of the records that leave one place for another (R94 to R133): the records in hand inside a step, the changes by
which a queue, a slot or the Record Store gives or takes one, and the chain of them that each effect on the queues is. -/
namespace Sys2Proof.Machine

/-! ## Reading a queue after a write of one part of it -/

namespace State
variable (s : State) (q p : QueueId)

theorem queue_setList (list : List Record) :
    (s.setList q list).queue p = if q = p then { s.queue q with list := list } else s.queue p := queue_setQueue _ _ _ _

theorem queue_setCharge (charge : Nat) :
    (s.setCharge q charge).queue p = if q = p then { s.queue q with charge := charge } else s.queue p := queue_setQueue _ _ _ _

theorem queue_chargeUp :
    (s.chargeUp q).queue p = if q = p then { s.queue q with charge := (s.queue q).charge + 1 } else s.queue p :=
  queue_setQueue _ _ _ _

theorem queue_chargeDown :
    (s.chargeDown q).queue p = if q = p then { s.queue q with charge := (s.queue q).charge - 1 } else s.queue p :=
  queue_setQueue _ _ _ _

theorem queue_countQueue (f : QueueCounters → QueueCounters) :
    (s.countQueue q f).queue p = if q = p then { s.queue q with counters := f (s.queue q).counters } else s.queue p :=
  queue_setQueue _ _ _ _

end State

/-- No counter of the queue exceeds its 32 bits. -/
def QueueCounters.InRange (c : QueueCounters) : Prop := ∀ v ∈ c.values, v ≤ 4294967295

/-- No counter of the Classifier exceeds its 32 bits. -/
def ClassifierCounters.InRange (c : ClassifierCounters) : Prop := ∀ v ∈ c.values, v ≤ 4294967295

@[simp] theorem QueueCounters.inRange_iff (c : QueueCounters) : c.InRange ↔
    c.admitted ≤ 4294967295 ∧ c.refusedFull ≤ 4294967295 ∧ c.refusedDisabled ≤ 4294967295 ∧ c.evicted ≤ 4294967295 ∧
    c.delivered ≤ 4294967295 ∧ c.taken ≤ 4294967295 ∧ c.released ≤ 4294967295 ∧ c.returned ≤ 4294967295 ∧
    c.expired ≤ 4294967295 ∧ c.requeued ≤ 4294967295 ∧ c.spilledOut ≤ 4294967295 ∧ c.spilledIn ≤ 4294967295 ∧
    c.droppedExhausted ≤ 4294967295 ∧ c.purged ≤ 4294967295 := by
  simp [QueueCounters.InRange, QueueCounters.values]

@[simp] theorem ClassifierCounters.inRange_iff (c : ClassifierCounters) : c.InRange ↔
    c.walks ≤ 4294967295 ∧ c.defaultDecisions ≤ 4294967295 ∧ c.handedOver ≤ 4294967295 ∧ c.noQueue ≤ 4294967295 ∧
    c.discards ≤ 4294967295 ∧ c.abandoned ≤ 4294967295 := by
  simp [ClassifierCounters.InRange, ClassifierCounters.values]

/-- The part inside a step: the records that are held nowhere just now, each with the queue it is still charged to, and a bound
on the admissions of the step so far. -/
structure Handling where
  state : State
  hand : List (Record × Option QueueId)
  admitted : Nat

/-- One change that an effect on the queues is made of. -/
inductive QueueFlow : Handling → Handling → Prop where
  | skip (s H k) : QueueFlow ⟨s, H, k⟩ ⟨s, H, k + 1⟩
  /-- The first records of a list leave it. -/
  | pull (s H k) (q : QueueId) (pulled rest : List Record) (list : (s.queue q).list = pulled ++ rest) :
    QueueFlow ⟨s, H, k⟩ ⟨s.setList q rest, pulled.map (·, some q) ++ H, k⟩
  /-- A slot is emptied (R116). -/
  | unslot (s H k) (i : SlotId) (o : Occupant) (occupied : (s.slot i).occupant = some o) :
    QueueFlow ⟨s, H, k⟩ ⟨s.emptySlot i, (o.record, some o.source) :: H, k⟩
  /-- The queue's charge for a record ends (R96). -/
  | uncharge (s H k) (r : Record) (q : QueueId) : QueueFlow ⟨s, (r, some q) :: H, k⟩ ⟨s.chargeDown q, (r, none) :: H, k⟩
  /-- A record is freed (R15). -/
  | free (s H k) (r : Record) : QueueFlow ⟨s, (r, none) :: H, k⟩ ⟨s.freeRecord r, H, k⟩
  /-- A record is spilled (R102). -/
  | spill (s H k) (r : Record) :
    QueueFlow ⟨s, (r, none) :: H, k⟩ ⟨s, ({ r with deliveryCount := 0, spilled := true }, none) :: H, k⟩
  /-- A record is admitted (R99). -/
  | admission (s H k) (r : Record) (q : QueueId) (spill : Bool) (enabled : (s.queue q).config.enabled = true)
    (room : (s.queue q).charge < (s.queue q).config.depthLimit) :
    QueueFlow ⟨s, (r, none) :: H, k⟩ ⟨s.enqueue q spill r, H, k + 1⟩
  /-- A record is admitted to a full queue, whose head is evicted (R101). -/
  | evict (s H k) (r : Record) (q : QueueId) (spill : Bool) (head : Record) (rest : List Record)
    (enabled : (s.queue q).config.enabled = true) (list : (s.queue q).list = head :: rest) :
    QueueFlow ⟨s, (r, none) :: H, k⟩ ⟨(s.evictHead q head rest).enqueue q spill r, H, k + 1⟩
  /-- A record returns to its place by age (R104). -/
  | requeue (s H k) (r : Record) (q : QueueId) :
    QueueFlow ⟨s, (r, some q) :: H, k⟩ ⟨s.setList q (insertByAge (s.queue q).age r (s.queue q).list), H, k⟩
  /-- A record goes into an EMPTY slot (R120). -/
  | claim (s H k) (r : Record) (q : QueueId) (i : SlotId) (c : QueueConfig) (empty : (s.slot i).occupant = none) :
    QueueFlow ⟨s, (r, some q) :: H, k⟩ ⟨s.setSlot i ⟨(s.slot i).issue,
      some ⟨{ r with deliveryCount := satAdd 255 r.deliveryCount 1 }, q, leaseDeadline c s.clock⟩⟩, H, k⟩
  /-- A lease takes a new deadline (R127). -/
  | extend (s H k) (i : SlotId) (o : Occupant) (c : QueueConfig) (occupied : (s.slot i).occupant = some o) :
    QueueFlow ⟨s, H, k⟩ ⟨s.setSlot i { s.slot i with occupant := some { o with deadline := leaseDeadline c s.clock } }, H, k⟩
  /-- A queue takes other parameters (R105). -/
  | config (s H k) (q : QueueId) (c : QueueConfig) (range : c.inRange = true) (spill : c.spillQueue ≠ some q)
    (enabled : c.enabled = false → (s.queue q).charge = 0) (depth : (s.queue q).charge ≤ c.depthLimit) :
    QueueFlow ⟨s, H, k⟩ ⟨(s.setQueue q { s.queue q with config := c }).evalDue q, H, k⟩
  | count (s H k) (q : QueueId) (f : QueueCounters → QueueCounters)
    (range : ∀ c : QueueCounters, c.InRange → (f c).InRange) : QueueFlow ⟨s, H, k⟩ ⟨s.countQueue q f, H, k⟩
  | countClassifier (s H k) (f : ClassifierCounters → ClassifierCounters)
    (range : ∀ c : ClassifierCounters, c.InRange → (f c).InRange) : QueueFlow ⟨s, H, k⟩ ⟨s.countClassifier f, H, k⟩
  | raise (s H k) (kind : AlertKind) (subject : Byte) : QueueFlow ⟨s, H, k⟩ ⟨s.raise kind subject, H, k⟩

/-- An effect on the queues as a chain of changes. -/
abbrev QueueChain : Handling → Handling → Prop := Relation.ReflTransGen QueueFlow

/-- A valid handle names the occupant of its slot (R115). -/
theorem State.occupant_of_validHandle {s : State} {h : Half} {o : Occupant} (valid : s.validHandle h = some o) :
    (s.slot (handleSlot h)).occupant = some o := by
  unfold State.validHandle at valid
  dsimp only at valid
  split at valid
  · exact valid
  · cases valid

theorem queueConfigArg_range {body : List Byte} {q : QueueId} {c : QueueConfig} (h : queueConfigArg body = some (q, c)) :
    c.inRange = true ∧ c.spillQueue ≠ some q := by
  unfold queueConfigArg at h
  split at h
  · split at h
    · simp only [Option.ite_none_right_eq_some, Option.some.injEq, Prod.mk.injEq] at h
      obtain ⟨⟨-, range, other⟩, rfl, rfl⟩ := h
      exact ⟨range, other⟩
    · cases h
  · cases h

theorem State.setQueue_queue (s : State) (q : QueueId) : s.setQueue q (s.queue q) = s := by
  simp [State.setQueue, State.queue]

theorem State.setCharge_setCharge (s : State) (q : QueueId) (c d : Nat) : (s.setCharge q c).setCharge q d = s.setCharge q d := by
  simp only [State.setCharge, State.setQueue, State.queue, vector_set_same, Vector.set_set]

namespace QueueChain

variable {a : Handling} {s : State} {H : List (Record × Option QueueId)} {k : Nat} {q : QueueId} {r : Record}

theorem skip (h : QueueChain a ⟨s, H, k⟩) : QueueChain a ⟨s, H, k + 1⟩ := h.tail (.skip s H k)

theorem raise {kind subject} (h : QueueChain a ⟨s, H, k⟩) : QueueChain a ⟨s.raise kind subject, H, k⟩ :=
  h.tail (.raise s H k kind subject)

theorem count {f : QueueCounters → QueueCounters} (h : QueueChain a ⟨s, H, k⟩)
    (range : ∀ c : QueueCounters, c.InRange → (f c).InRange) : QueueChain a ⟨s.countQueue q f, H, k⟩ :=
  h.tail (.count s H k q f range)

theorem countClassifier {f : ClassifierCounters → ClassifierCounters} (h : QueueChain a ⟨s, H, k⟩)
    (range : ∀ c : ClassifierCounters, c.InRange → (f c).InRange) : QueueChain a ⟨s.countClassifier f, H, k⟩ :=
  h.tail (.countClassifier s H k f range)

theorem free (h : QueueChain a ⟨s, (r, none) :: H, k⟩) : QueueChain a ⟨s.freeRecord r, H, k⟩ := h.tail (.free s H k r)

theorem uncharge (h : QueueChain a ⟨s, (r, some q) :: H, k⟩) : QueueChain a ⟨s.chargeDown q, (r, none) :: H, k⟩ :=
  h.tail (.uncharge s H k r q)

theorem unslot {i : SlotId} {o : Occupant} (h : QueueChain a ⟨s, H, k⟩) (occupied : (s.slot i).occupant = some o) :
    QueueChain a ⟨s.emptySlot i, (o.record, some o.source) :: H, k⟩ := h.tail (.unslot s H k i o occupied)

theorem pull {pulled rest : List Record} (h : QueueChain a ⟨s, H, k⟩) (list : (s.queue q).list = pulled ++ rest) :
    QueueChain a ⟨s.setList q rest, pulled.map (·, some q) ++ H, k⟩ := h.tail (.pull s H k q pulled rest list)

/-! ## Admission and what comes back -/

theorem enqueue {spill : Bool} (h : QueueChain a ⟨s, (r, none) :: H, k⟩) (enabled : (s.queue q).config.enabled = true)
    (room : (s.queue q).charge < (s.queue q).config.depthLimit) : QueueChain a ⟨s.enqueue q spill r, H, k + 1⟩ :=
  h.tail (.admission s H k r q spill enabled room)

theorem refuseFull (h : QueueChain a ⟨s, (r, none) :: H, k⟩) : QueueChain a ⟨s.refuseFull q r, H, k + 1⟩ :=
  (h.free.count (f := fun c => { c with refusedFull := bump c.refusedFull }) fun c hc => by simp_all).raise.skip

theorem offer {spill : Bool} (h : QueueChain a ⟨s, (r, none) :: H, k⟩) (enabled : (s.queue q).config.enabled = true) :
    QueueChain a ⟨s.offer q spill r, H, k + 1⟩ := by
  unfold State.offer
  dsimp only
  split
  · exact h.enqueue enabled ‹_›
  · split
    · exact raise (h.tail (.evict s H k r q spill _ _ enabled ‹_›))
    · exact h.refuseFull
    · exact h.refuseFull

theorem requeue (h : QueueChain a ⟨s, (r, some q) :: H, k⟩) : QueueChain a ⟨s.requeue q r, H, k⟩ :=
  count (f := fun c => { c with requeued := bump c.requeued }) (h.tail (.requeue s H k r q)) fun c hc => by simp_all

theorem dropRecord (h : QueueChain a ⟨s, (r, some q) :: H, k⟩) : QueueChain a ⟨s.dropRecord q r, H, k⟩ :=
  h.uncharge.free.count (f := fun c => { c with droppedExhausted := bump c.droppedExhausted }) fun c hc => by simp_all

theorem spillRecord {target : QueueId} (h : QueueChain a ⟨s, (r, some q) :: H, k⟩) :
    QueueChain a ⟨s.spillRecord q target r, H, k + 1⟩ := by
  unfold State.spillRecord
  split
  · rename_i enabled
    have spilled := (h.uncharge.count (q := q) (f := fun c => { c with spilledOut := bump c.spilledOut })
      fun c hc => by simp_all)
    refine offer (spilled.tail (.spill _ _ _ _)) ?_
    rw [State.queue_countQueue, State.queue_chargeDown, State.queue_chargeDown]
    split
    · rename_i same
      subst same
      rwa [if_pos rfl]
    · exact enabled
  · exact h.dropRecord.skip

theorem comeBack (h : QueueChain a ⟨s, (r, some q) :: H, k⟩) : QueueChain a ⟨s.comeBack q r, H, k + 1⟩ := by
  unfold State.comeBack
  dsimp only
  split
  · split
    · exact h.spillRecord
    · exact h.dropRecord.skip
  · exact h.requeue.skip

/-- The outcome of a walk is handed on: its record is in hand, with what the decision writes into it (R78 to R80). -/
def decidedRecord (d : Decision) (generation : Half) (r : Record) : Record :=
  match d with
  | .discard => r
  | .deliver _ label => { r with generation := some generation, label := if label = 0 then none else some label }

theorem handOn {d : Decision} (h : QueueChain a ⟨s, (decidedRecord d s.classifier.generation r, none) :: H, k⟩) :
    QueueChain a ⟨s.handOn d r, H, k + 1⟩ := by
  cases d with
  | discard => exact (h.free.countClassifier (f := fun c => { c with discards := bump c.discards }) fun c hc => by simp_all).skip
  | deliver q label =>
    unfold State.handOn
    dsimp only
    split
    · rename_i enabled
      exact offer (h.countClassifier (f := fun c => { c with handedOver := bump c.handedOver }) fun c hc => by simp_all)
        enabled
    · have freed := h.free.countClassifier (f := fun c => { c with noQueue := bump c.noQueue }) fun c hc => by simp_all
      exact (freed.count (f := fun c => { c with refusedDisabled := bump c.refusedDisabled }) fun c hc => by simp_all).skip

/-! ## FETCH -/

theorem claimHead {rest : List Record} {i : SlotId} (h : QueueChain a ⟨s, H, k⟩) (list : (s.queue q).list = r :: rest)
    (empty : (s.slot i).occupant = none) : QueueChain a ⟨(s.claimHead q r rest i).1, H, k⟩ :=
  count (f := fun c => { c with delivered := bump c.delivered })
    ((h.pull (pulled := [r]) list).tail (.claim _ _ _ r q i ((s.setList q rest).queue q).config empty))
    fun c hc => by simp_all

theorem takeHead {rest : List Record} (h : QueueChain a ⟨s, H, k⟩) (list : (s.queue q).list = r :: rest) :
    QueueChain a ⟨(s.takeHead q r rest).1, H, k⟩ :=
  (h.pull (pulled := [r]) list).uncharge.free.count (f := fun c => { c with taken := bump c.taken })
    fun c hc => by simp_all

theorem deliverHead {mode : FetchMode} {used : Nat} {out : State × List Byte} (h : QueueChain a ⟨s, H, k⟩)
    (delivered : s.deliverHead mode q used = some out) : QueueChain a ⟨out.1, H, k⟩ := by
  unfold State.deliverHead at delivered
  split at delivered
  · cases delivered
  · split at delivered
    · cases delivered
    · cases mode with
      | claim =>
        obtain ⟨i, free, rfl⟩ := Option.map_eq_some_iff.1 delivered
        refine h.claimHead ‹_› ?_
        simpa using List.find?_some free
      | take =>
        cases delivered
        exact h.takeHead ‹_›

theorem deliverMany {mode : FetchMode} {m used : Nat} (h : QueueChain a ⟨s, H, k⟩) :
    QueueChain a ⟨(s.deliverMany mode q m used).1, H, k⟩ := by
  induction m generalizing s used with
  | zero => exact h
  | succ m ih =>
    unfold State.deliverMany
    split
    · exact h
    · exact ih (h.deliverHead ‹_›)

theorem fetchAct {body : List Byte} (h : QueueChain a ⟨s, H, k⟩) : QueueChain a ⟨(Machine.fetchAct body s).1, H, k⟩ := by
  unfold Machine.fetchAct
  split
  · exact h
  · split
    · exact h
    · exact h.deliverMany

/-! ## Handles and leases -/

theorem releaseHandle {x : Half} (h : QueueChain a ⟨s, H, k⟩) : QueueChain a ⟨(Machine.releaseHandle x s).1, H, k⟩ := by
  unfold Machine.releaseHandle
  split
  · exact h
  · rename_i o valid
    exact (h.unslot (State.occupant_of_validHandle valid)).uncharge.free.count (f := fun c => { c with released := bump c.released })
      fun c hc => by simp_all

theorem returnHandle {x : Half} (h : QueueChain a ⟨s, H, k⟩) : QueueChain a ⟨(Machine.returnHandle x s).1, H, k + 1⟩ := by
  unfold Machine.returnHandle
  split
  · exact h.skip
  · exact ((h.unslot (State.occupant_of_validHandle ‹_›)).count (f := fun c => { c with returned := bump c.returned })
      fun c hc => by simp_all).comeBack

theorem extendHandle {x : Half} (h : QueueChain a ⟨s, H, k⟩) : QueueChain a ⟨(Machine.extendHandle x s).1, H, k⟩ := by
  unfold Machine.extendHandle
  split
  · exact h
  · exact h.tail (.extend s H k _ _ _ (State.occupant_of_validHandle ‹_›))

/-- One action after another over a list of items, each with at most c admissions. -/
theorem eachItem {ι : Type} {act : ι → State → State × Byte} (c : Nat)
    (hact : ∀ i s k, QueueChain a ⟨s, H, k⟩ → QueueChain a ⟨(act i s).1, H, k + c⟩) {items : List ι}
    (h : QueueChain a ⟨s, H, k⟩) : QueueChain a ⟨(Machine.eachItem act items s).1, H, k + items.length * c⟩ := by
  induction items generalizing s k with
  | nil => rwa [List.length_nil, Nat.zero_mul]
  | cons i rest ih =>
    have last := ih (hact i s k h)
    rwa [Nat.add_assoc, Nat.add_comm c, ← Nat.succ_mul] at last

theorem settleAct {one : Half → State → State × Byte} {body : List Byte}
    (hone : ∀ x s k, QueueChain a ⟨s, H, k⟩ → QueueChain a ⟨(one x s).1, H, k⟩) (h : QueueChain a ⟨s, H, k⟩) :
    QueueChain a ⟨(Machine.settleAct one body s).1, H, k⟩ := by
  unfold Machine.settleAct
  split
  · exact h
  · exact h.eachItem 0 hone

theorem expireLease {i : SlotId} {o : Occupant} (h : QueueChain a ⟨s, H, k⟩) (occupied : (s.slot i).occupant = some o) :
    QueueChain a ⟨s.expireLease i o, H, k + 1⟩ := by
  have expired := ((h.unslot occupied).count (q := o.source) (f := fun c => { c with expired := bump c.expired })
    fun c hc => by simp_all).raise (kind := .leaseExpired) (subject := queueBit o.source)
  unfold State.expireLease
  dsimp only
  split
  · exact expired.dropRecord.skip
  · exact expired.comeBack

/-! ## QUEUE_CONFIG and QUEUE_PURGE -/

/-- Records off the list end their charge and are freed one after another. -/
theorem dischargeAll {rs : List Record} (h : QueueChain a ⟨s, rs.map (·, some q) ++ H, k⟩) :
    QueueChain a ⟨(s.setCharge q ((s.queue q).charge - rs.length)).freeAll rs, H, k⟩ := by
  induction rs generalizing s with
  | nil =>
    rw [List.length_nil, Nat.sub_zero, show s.setCharge q (s.queue q).charge = s from State.setQueue_queue s q]
    exact h
  | cons r rest ih =>
    have last := ih (s := (s.chargeDown q).freeRecord r) h.uncharge.free
    have charge : ((s.chargeDown q).freeRecord r).queue q = { s.queue q with charge := (s.queue q).charge - 1 } :=
      (State.queue_chargeDown s q q).trans (if_pos rfl)
    rw [charge, Nat.sub_sub, Nat.add_comm 1] at last
    have once : ((s.chargeDown q).freeRecord r).setCharge q ((s.queue q).charge - (rest.length + 1)) =
        (s.setCharge q ((s.queue q).charge - (rest.length + 1))).freeRecord r :=
      congrArg (State.freeRecord r) (State.setCharge_setCharge s q _ _)
    rwa [once] at last

theorem queuePurgeAct {body : List Byte} (h : QueueChain a ⟨s, H, k⟩) :
    QueueChain a ⟨(Machine.queuePurgeAct body s).1, H, k⟩ := by
  unfold Machine.queuePurgeAct
  split
  · exact h
  · rename_i q _
    have purged := dischargeAll (q := q) (h.pull (rest := []) (List.append_nil _).symm)
    have counted := purged.count (q := q) (f := fun c => { c with purged := bumpBy (s.queue q).queued c.purged })
      fun c hc => by simp_all
    have charge : ((s.setList q []).queue q).charge = (s.queue q).charge := by
      rw [State.queue_setList, if_pos rfl]
    rw [charge, State.freeAll_eq] at counted
    dsimp only
    rw [State.freeAll_eq]
    exact counted

theorem queueConfigAct {body : List Byte} (h : QueueChain a ⟨s, H, k⟩) :
    QueueChain a ⟨(Machine.queueConfigAct body s).1, H, k⟩ := by
  unfold Machine.queueConfigAct
  split
  · exact h
  · rename_i q c arg
    dsimp only
    split
    · exact h
    · rename_i fits
      simp only [not_or, not_and, not_not, not_lt] at fits
      obtain ⟨enabled, depth⟩ := fits
      exact h.tail (.config s H k q c (queueConfigArg_range arg).1 (queueConfigArg_range arg).2 enabled depth)

end QueueChain

/-- The body of a RETURN carries as many handles as its list count says, at most 32 (R124, R187). -/
theorem handlesArg_length {body : List Byte} {handles : List Half} (arg : handlesArg body = some handles)
    (fits : requestLength Kind.returnHandles body = some body.length) : handles.length ≤ 32 := by
  have reads : ∀ bytes : List Byte, (readHandles bytes).length ≤ bytes.length / 2 := by
    intro bytes
    induction bytes using readHandles.induct with
    | case1 hi lo rest ih => simp only [readHandles, List.length_cons]; omega
    | case2 bytes other => simp [readHandles]
  unfold handlesArg at arg
  split at arg
  · rename_i count rest
    simp only [Option.ite_none_right_eq_some, Option.some.injEq] at arg
    obtain ⟨counted, rfl⟩ := arg
    have length : 1 + 2 * count.toNat = rest.length + 1 := Option.some.inj fits
    have := reads rest
    omega
  · cases arg

/-- Every effect on the queues is a chain of changes with at most 32 admissions, one for each handle of a RETURN (R124). -/
theorem QueueEffect.chain {s t : State} (h : QueueEffect s t) : ∃ k ≤ 32, QueueChain ⟨s, [], 0⟩ ⟨t, [], k⟩ := by
  have start : QueueChain ⟨s, [], 0⟩ ⟨s, [], 0⟩ := .refl
  cases h with
  | queueConfig => exact ⟨0, by omega, start.queueConfigAct⟩
  | queuePurge => exact ⟨0, by omega, start.queuePurgeAct⟩
  | fetch => exact ⟨0, by omega, start.fetchAct⟩
  | release => exact ⟨0, by omega, start.settleAct fun _ _ _ h => h.releaseHandle⟩
  | extend => exact ⟨0, by omega, start.settleAct fun _ _ _ h => h.extendHandle⟩
  | leaseExpired i o occupied => exact ⟨1, by omega, start.expireLease occupied⟩
  | returnHandles body fits =>
    unfold settleAct
    split
    · exact ⟨0, by omega, start⟩
    · rename_i handles arg
      exact ⟨0 + handles.length * 1, by have := handlesArg_length arg fits; omega,
        start.eachItem 1 fun _ _ _ h => h.returnHandle⟩

end Sys2Proof.Machine
end

section
/-! Which records are held where (R2, R96): the records charged to each queue and all the records held, up to their order, after
each change that a step is made of. -/
namespace Sys2Proof.Machine

/-- Two gatherings that differ at one item differ, up to order, in what that item gives. -/
theorem flatMap_perm_of_eq_off {ι α : Type} [DecidableEq ι] {items : List ι} (distinct : items.Nodup) {i : ι} (mem : i ∈ items)
    {f g : ι → List α} (off : ∀ j, j ≠ i → g j = f j) :
    ∃ rest, (items.flatMap f).Perm (f i ++ rest) ∧ (items.flatMap g).Perm (g i ++ rest) := by
  refine ⟨(items.erase i).flatMap f, (List.perm_cons_erase mem).flatMap_right f, ?_⟩
  have others : (items.erase i).flatMap g = (items.erase i).flatMap f :=
    List.flatMap_congr fun j hj => off j ((List.Nodup.mem_erase_iff distinct).1 hj).1
  exact others ▸ (List.perm_cons_erase mem).flatMap_right g

/-! ## The records charged to a queue -/

/-- What a slot holds of queue q. -/
def Slot.recordsOf (q : QueueId) (x : Slot) : List Record :=
  match x.occupant with
  | some o => if o.source = q then [o.record] else []
  | none => []

/-- The records OUTSTANDING from q. -/
def State.outstandingOf (s : State) (q : QueueId) : List Record := allSlots.flatMap fun i => (s.slot i).recordsOf q

theorem State.recordsOf_eq (s : State) (q : QueueId) : s.recordsOf q = (s.queue q).list ++ s.outstandingOf q := rfl

theorem outstandingFrom_eq (s : State) (q : QueueId) : outstandingFrom s q = (s.outstandingOf q).length := by
  unfold outstandingFrom State.outstandingOf
  induction allSlots with
  | nil => rfl
  | cons i rest ih =>
    rw [List.flatMap_cons, List.length_append, ← ih]
    cases occupied : (s.slot i).occupant with
    | none => simp [Slot.recordsOf, occupied]
    | some o => by_cases same : o.source = q <;> simp [Slot.recordsOf, occupied, same, Nat.add_comm]

namespace Handling

/-- The records in hand that are still charged to q. -/
def inHand (a : Handling) (q : QueueId) : List Record :=
  a.hand.filterMap fun x => if x.2 = some q then some x.1 else none

/-- The records charged to q: QUEUED in it, OUTSTANDING from it, or in hand (R96). -/
def chargedTo (a : Handling) (q : QueueId) : List Record := a.state.recordsOf q ++ a.inHand q

theorem chargedTo_nil (s : State) (q : QueueId) (k : Nat) : chargedTo ⟨s, [], k⟩ q = s.recordsOf q :=
  List.append_nil _

end Handling

section
variable {s : State} {q p : QueueId} {i : SlotId} {H : List (Record × Option QueueId)} {k : Nat} {r : Record}

theorem outstandingOf_setSlot (s : State) (i : SlotId) (x : Slot) (q : QueueId) : ∃ rest,
    (s.outstandingOf q).Perm ((s.slot i).recordsOf q ++ rest) ∧
    ((s.setSlot i x).outstandingOf q).Perm (x.recordsOf q ++ rest) := by
  obtain ⟨rest, before, after⟩ := flatMap_perm_of_eq_off (List.nodup_finRange 64) (List.mem_finRange i)
    (f := fun j => (s.slot j).recordsOf q) (g := fun j => ((s.setSlot i x).slot j).recordsOf q)
    fun j other => by rw [State.slot_setSlot, if_neg (Ne.symm other)]
  refine ⟨rest, before, ?_⟩
  rwa [State.slot_setSlot_same] at after

/-- A write of a list changes what is charged to its queue by the list alone. -/
theorem chargedTo_setList (list : List Record) : Handling.chargedTo ⟨s.setList q list, H, k⟩ p =
    (if q = p then list else (s.queue p).list) ++ s.outstandingOf p ++ Handling.inHand ⟨s, H, k⟩ p := by
  unfold Handling.chargedTo
  rw [State.recordsOf_eq, State.queue_setList]
  split <;> rfl

theorem inHand_cons_some : Handling.inHand ⟨s, (r, some q) :: H, k⟩ p =
    (if q = p then [r] else []) ++ Handling.inHand ⟨s, H, k⟩ p := by
  unfold Handling.inHand
  rw [List.filterMap_cons]
  by_cases same : q = p <;> simp [same]

theorem inHand_cons_none : Handling.inHand ⟨s, (r, none) :: H, k⟩ p = Handling.inHand ⟨s, H, k⟩ p := by
  simp [Handling.inHand]

theorem inHand_append_some (rs : List Record) : Handling.inHand ⟨s, rs.map (·, some q) ++ H, k⟩ p =
    (if q = p then rs else []) ++ Handling.inHand ⟨s, H, k⟩ p := by
  unfold Handling.inHand
  rw [List.filterMap_append, List.filterMap_map]
  by_cases same : q = p <;> simp [same]

end

section
variable (s : State) (q p : QueueId)

/-- The record as a queue admits it (R97, R99). -/
def Queue.admitted (x : Queue) (q : QueueId) (r : Record) : Record :=
  { r with admission := some (x.admissionCounter + 1), queue := some q }

/-- An admission appends the record, and raises charge and counter (R97, R99). -/
theorem State.queue_enqueue (spill : Bool) (r : Record) : (s.enqueue q spill r).queue p =
    if q = p then { s.queue q with
      list := (s.queue q).list ++ [(s.queue q).admitted q r]
      charge := (s.queue q).charge + 1
      admissionCounter := (s.queue q).admissionCounter + 1
      counters := if spill then { (s.queue q).counters with spilledIn := bump (s.queue q).counters.spilledIn }
        else { (s.queue q).counters with admitted := bump (s.queue q).counters.admitted } }
    else s.queue p := by
  unfold State.enqueue
  dsimp only
  by_cases same : q = p
  · subst same
    simp only [State.queue_countQueue, State.queue_chargeUp, State.queue_setList, State.queue_setQueue_same, if_true]
    rfl
  · simp only [State.queue_countQueue, State.queue_chargeUp, State.queue_setList, State.queue_setQueue, if_neg same]

/-- An eviction takes the head off the list and off the charge (R101). -/
theorem State.queue_evictHead (head : Record) (rest : List Record) : (s.evictHead q head rest).queue p =
    if q = p then { s.queue q with
      list := rest
      charge := (s.queue q).charge - 1
      counters := { (s.queue q).counters with evicted := bump (s.queue q).counters.evicted } }
    else s.queue p := by
  unfold State.evictHead
  by_cases same : q = p
  · subst same
    simp only [State.queue_countQueue, State.queue_freeRecord, State.queue_chargeDown, State.queue_setList, if_true]
  · simp only [State.queue_countQueue, State.queue_freeRecord, State.queue_chargeDown, State.queue_setList, if_neg same]

end

/-! ## What each change does to the records charged -/

section
variable {s : State} {q p : QueueId} {i : SlotId} {H : List (Record × Option QueueId)} {k : Nat} {r : Record}

/-- The one record when the queue is q, or none. -/
def onlyFor (q p : QueueId) (r : Record) : List Record := if q = p then [r] else []

theorem chargedTo_none : Handling.chargedTo ⟨s, (r, none) :: H, k⟩ p = Handling.chargedTo ⟨s, H, k⟩ p := by
  unfold Handling.chargedTo
  rw [inHand_cons_none]

theorem chargedTo_some : (Handling.chargedTo ⟨s, (r, some q) :: H, k⟩ p).Perm
    (onlyFor q p r ++ Handling.chargedTo ⟨s, H, k⟩ p) := by
  unfold Handling.chargedTo
  rw [inHand_cons_some, ← List.append_assoc, ← List.append_assoc]
  exact List.perm_append_comm.append_right _

theorem chargedTo_pull {pulled rest : List Record} (list : (s.queue q).list = pulled ++ rest) :
    (Handling.chargedTo ⟨s.setList q rest, pulled.map (·, some q) ++ H, k⟩ p).Perm (Handling.chargedTo ⟨s, H, k⟩ p) := by
  rw [chargedTo_setList, inHand_append_some, List.perm_iff_count]
  intro x
  unfold Handling.chargedTo
  rw [State.recordsOf_eq]
  by_cases same : q = p
  · subst same
    simp only [if_true, list, List.count_append]
    omega
  · simp only [if_neg same, List.count_append, List.count_nil]
    omega

theorem recordsOf_occupied {o : Occupant} (occupied : (s.slot i).occupant = some o) :
    (s.slot i).recordsOf p = onlyFor o.source p o.record := by
  simp only [Slot.recordsOf, occupied, onlyFor]

theorem recordsOf_empty (empty : (s.slot i).occupant = none) : (s.slot i).recordsOf p = [] := by
  simp only [Slot.recordsOf, empty]

theorem chargedTo_unslot {o : Occupant} (occupied : (s.slot i).occupant = some o) :
    (Handling.chargedTo ⟨s.emptySlot i, (o.record, some o.source) :: H, k⟩ p).Perm (Handling.chargedTo ⟨s, H, k⟩ p) := by
  obtain ⟨rest, before, after⟩ := outstandingOf_setSlot s i ⟨(s.slot i).issue + 1, none⟩ p
  rw [recordsOf_occupied occupied] at before
  rw [List.perm_iff_count] at before after ⊢
  intro x
  have before := before x
  have after := after x
  unfold Handling.chargedTo
  rw [inHand_cons_some, State.recordsOf_eq, State.recordsOf_eq]
  simp only [List.count_append, Slot.recordsOf, List.count_nil, onlyFor] at before after ⊢
  unfold State.emptySlot
  rw [State.queue_setSlot]
  simp only [Handling.inHand]
  omega

theorem chargedTo_uncharge : (Handling.chargedTo ⟨s, (r, some q) :: H, k⟩ p).Perm
    (onlyFor q p r ++ Handling.chargedTo ⟨s.chargeDown q, (r, none) :: H, k⟩ p) := by
  have list : ((s.chargeDown q).queue p).list = (s.queue p).list := by
    rw [State.queue_chargeDown]; split
    · rename_i same; rw [same]
    · rfl
  rw [List.perm_iff_count]
  intro x
  unfold Handling.chargedTo
  rw [inHand_cons_some, inHand_cons_none, State.recordsOf_eq, State.recordsOf_eq, list]
  simp only [List.count_append, onlyFor, Handling.inHand, State.outstandingOf, State.slot_chargeDown]
  omega

theorem chargedTo_enqueue {spill : Bool} : (Handling.chargedTo ⟨s.enqueue q spill r, H, k + 1⟩ p).Perm
    (onlyFor q p ((s.queue q).admitted q r) ++ Handling.chargedTo ⟨s, H, k⟩ p) := by
  have slots : (s.enqueue q spill r).outstandingOf p = s.outstandingOf p := rfl
  rw [List.perm_iff_count]
  intro x
  unfold Handling.chargedTo onlyFor
  rw [State.recordsOf_eq, State.recordsOf_eq, State.queue_enqueue, slots]
  by_cases same : q = p
  · subst same
    simp only [if_true, List.count_append, Handling.inHand]
    omega
  · simp only [if_neg same, List.count_append, List.count_nil, Handling.inHand]
    omega

theorem chargedTo_evictHead {head : Record} {rest : List Record} (list : (s.queue q).list = head :: rest) :
    (Handling.chargedTo ⟨s, H, k⟩ p).Perm (onlyFor q p head ++ Handling.chargedTo ⟨s.evictHead q head rest, H, k⟩ p) := by
  have slots : (s.evictHead q head rest).outstandingOf p = s.outstandingOf p := rfl
  rw [List.perm_iff_count]
  intro x
  unfold Handling.chargedTo onlyFor
  rw [State.recordsOf_eq, State.recordsOf_eq, State.queue_evictHead, slots]
  by_cases same : q = p
  · subst same
    simp only [if_true, list, List.count_append, List.count_cons, List.count_nil, Handling.inHand]
    omega
  · simp only [if_neg same, List.count_append, List.count_nil, Handling.inHand]
    omega

theorem chargedTo_requeue (age : Record → Nat) :
    (Handling.chargedTo ⟨s.setList q (insertByAge age r (s.queue q).list), H, k⟩ p).Perm
      (Handling.chargedTo ⟨s, (r, some q) :: H, k⟩ p) := by
  have inserted : (insertByAge age r (s.queue q).list).Perm (r :: (s.queue q).list) := by
    rw [insertByAge_eq]
    conv_rhs => rw [← olderPart_append_youngerPart age r (s.queue q).list]
    exact List.perm_middle
  rw [chargedTo_setList, List.perm_iff_count]
  intro x
  have inserted := List.perm_iff_count.1 inserted x
  unfold Handling.chargedTo
  rw [State.recordsOf_eq, inHand_cons_some]
  by_cases same : q = p
  · subst same
    simp only [if_true, inserted, List.count_append, List.count_cons, List.count_nil]
    omega
  · simp only [if_neg same, List.count_append, List.count_nil]
    omega

/-- A write of an EMPTY slot puts its new record beside those charged before (R120). -/
theorem chargedTo_claim {issue : BitVec 10} {o : Occupant} (empty : (s.slot i).occupant = none) :
    (Handling.chargedTo ⟨s.setSlot i ⟨issue, some o⟩, H, k⟩ p).Perm
      (onlyFor o.source p o.record ++ Handling.chargedTo ⟨s, H, k⟩ p) := by
  obtain ⟨rest, before, after⟩ := outstandingOf_setSlot s i ⟨issue, some o⟩ p
  rw [recordsOf_empty empty] at before
  rw [List.perm_iff_count] at before after ⊢
  intro x
  have before := before x
  have after := after x
  unfold Handling.chargedTo
  rw [State.recordsOf_eq, State.recordsOf_eq, State.queue_setSlot]
  simp only [List.count_append, Slot.recordsOf, List.count_nil, onlyFor, Handling.inHand] at before after ⊢
  omega

/-- A write of an OCCUPIED slot that keeps record and source changes nothing of what is charged (R127). -/
theorem chargedTo_extend {issue : BitVec 10} {o : Occupant} {d : Option Nat} (occupied : (s.slot i).occupant = some o) :
    (Handling.chargedTo ⟨s.setSlot i ⟨issue, some { o with deadline := d }⟩, H, k⟩ p).Perm
      (Handling.chargedTo ⟨s, H, k⟩ p) := by
  obtain ⟨rest, before, after⟩ := outstandingOf_setSlot s i ⟨issue, some { o with deadline := d }⟩ p
  rw [recordsOf_occupied occupied] at before
  rw [List.perm_iff_count] at before after ⊢
  intro x
  have before := before x
  have after := after x
  unfold Handling.chargedTo
  rw [State.recordsOf_eq, State.recordsOf_eq, State.queue_setSlot]
  simp only [List.count_append, Slot.recordsOf, onlyFor, Handling.inHand] at before after ⊢
  omega

/-- What is charged to a queue is read off its list, the slots and the hand. -/
theorem chargedTo_congr {t : State} (list : (t.queue p).list = (s.queue p).list) (slots : t.slots = s.slots) :
    Handling.chargedTo ⟨t, H, k⟩ p = Handling.chargedTo ⟨s, H, k⟩ p := by
  unfold Handling.chargedTo Handling.inHand
  rw [State.recordsOf_eq, State.recordsOf_eq, list]
  unfold State.outstandingOf State.slot
  rw [slots]

end

/-! ## What the records held weigh -/

/-- A sum over records: their number, or the blocks they hold (R2, R6). -/
def weigh (f : Record → Nat) (rs : List Record) : Nat := (rs.map f).sum

section
variable (f : Record → Nat)

@[simp] theorem weigh_nil : weigh f [] = 0 := rfl

@[simp] theorem weigh_cons (r : Record) (rs : List Record) : weigh f (r :: rs) = f r + weigh f rs := by simp [weigh]

@[simp] theorem weigh_append (a b : List Record) : weigh f (a ++ b) = weigh f a + weigh f b := by simp [weigh]

theorem weigh_perm {a b : List Record} (h : a.Perm b) : weigh f a = weigh f b := (h.map f).sum_eq

theorem length_eq_weigh (rs : List Record) : rs.length = weigh (fun _ => 1) rs := by simp [weigh]

/-- What all the records held weigh (R2). -/
def State.weight (s : State) : Nat := weigh f (heldRecords s)

variable (s : State)

theorem State.weight_eq : s.weight f = weigh f (allLanes.flatMap fun n => (s.lane n).assembly.toList) +
    weigh f s.classifier.intake + weigh f (s.classifier.walk.map Walk.record).toList +
    weigh f (allQueues.flatMap fun q => (s.queue q).list) +
    weigh f (allSlots.flatMap fun i => ((s.slot i).occupant.map Occupant.record).toList) := by
  simp only [State.weight, heldRecords, weigh_append]

theorem weigh_flatMap_of_eq_off {ι : Type} [DecidableEq ι] {items : List ι} (distinct : items.Nodup) {i : ι} (mem : i ∈ items)
    {g h : ι → List Record} (off : ∀ j, j ≠ i → h j = g j) :
    weigh f (items.flatMap h) + weigh f (g i) = weigh f (items.flatMap g) + weigh f (h i) := by
  obtain ⟨rest, before, after⟩ := flatMap_perm_of_eq_off distinct mem off
  rw [weigh_perm f before, weigh_perm f after, weigh_append, weigh_append]
  omega

theorem State.weight_setQueue (q : QueueId) (x : Queue) :
    (s.setQueue q x).weight f + weigh f (s.queue q).list = s.weight f + weigh f x.list := by
  have moved := weigh_flatMap_of_eq_off f (items := allQueues) (by decide) (i := q) (by revert q; decide)
    (g := fun p => (s.queue p).list) (h := fun p => ((s.setQueue q x).queue p).list)
    fun p other => by rw [State.queue_setQueue, if_neg (Ne.symm other)]
  rw [State.queue_setQueue_same] at moved
  simp only [State.weight_eq, State.lane_setQueue, State.slot_setQueue, State.setQueue_classifier]
  omega

theorem State.weight_setSlot (i : SlotId) (x : Slot) :
    (s.setSlot i x).weight f + weigh f ((s.slot i).occupant.map Occupant.record).toList =
      s.weight f + weigh f (x.occupant.map Occupant.record).toList := by
  have moved := weigh_flatMap_of_eq_off f (items := allSlots) (List.nodup_finRange 64) (List.mem_finRange i)
    (g := fun j => ((s.slot j).occupant.map Occupant.record).toList)
    (h := fun j => (((s.setSlot i x).slot j).occupant.map Occupant.record).toList)
    fun j other => by rw [State.slot_setSlot, if_neg (Ne.symm other)]
  rw [State.slot_setSlot_same] at moved
  simp only [State.weight_eq, State.lane_setSlot, State.queue_setSlot, State.setSlot_classifier]
  omega

theorem State.weight_setLane (n : LaneId) (l : Lane) :
    (s.setLane n l).weight f + weigh f (s.lane n).assembly.toList = s.weight f + weigh f l.assembly.toList := by
  have moved := weigh_flatMap_of_eq_off f (items := allLanes) (by decide) (i := n) (by revert n; decide)
    (g := fun m => (s.lane m).assembly.toList) (h := fun m => ((s.setLane n l).lane m).assembly.toList)
    fun m other => by rw [State.lane_setLane, if_neg (Ne.symm other)]
  rw [State.lane_setLane, if_pos rfl] at moved
  simp only [State.weight_eq, State.queue_setLane, State.slot_setLane, State.setLane_classifier]
  omega

end

end Sys2Proof.Machine
end

section
/-! The charge law (R95, R96): kept by every change that an effect on the queues is made of, and so by every step. -/
namespace Sys2Proof.Machine

/-- The charge law inside a step: the records in hand count as long as they are charged (R95, R96). -/
def Handling.ChargeLaw (a : Handling) : Prop :=
  ∀ q, (a.state.queue q).charge = (a.chargedTo q).length ∧
    (a.state.queue q).charge ≤ (a.state.queue q).config.depthLimit ∧
    ((a.state.queue q).config.enabled = false → (a.state.queue q).charge = 0)

theorem chargeLaw_iff (s : State) (k : Nat) : ChargeLaw s ↔ Handling.ChargeLaw ⟨s, [], k⟩ := by
  refine forall_congr' fun q => ?_
  rw [Handling.chargedTo_nil, State.recordsOf_eq, List.length_append, outstandingFrom_eq]
  rfl

theorem length_onlyFor (q p : QueueId) (r : Record) : (onlyFor q p r).length = if q = p then 1 else 0 := by
  unfold onlyFor; split <;> rfl

/-- The charge law is kept by every change of the queues (R96). -/
theorem QueueFlow.keeps_ChargeLaw {a b : Handling} (h : QueueFlow a b) (law : a.ChargeLaw) : b.ChargeLaw := by
  intro p
  obtain ⟨count, depth, disabled⟩ := law p
  cases h with
  | skip | spill | free | countClassifier | raise => exact ⟨count, depth, disabled⟩
  | pull s H k q pulled rest list =>
    rw [(chargedTo_pull list).length_eq]
    dsimp only
    rw [State.queue_setList]
    split
    · rename_i same; subst same; exact ⟨count, depth, disabled⟩
    · exact ⟨count, depth, disabled⟩
  | unslot s H k i o occupied =>
    rw [(chargedTo_unslot occupied).length_eq]
    exact ⟨count, depth, disabled⟩
  | uncharge s H k r q =>
    rw [chargedTo_uncharge.length_eq, List.length_append, length_onlyFor] at count
    dsimp only at count depth disabled ⊢
    rw [State.queue_chargeDown]
    split
    · rename_i same
      subst same
      rw [if_pos rfl] at count
      exact ⟨by dsimp only; omega, by dsimp only; omega, fun off => by have := disabled off; dsimp only; omega⟩
    · rename_i other
      rw [if_neg other, Nat.zero_add] at count
      exact ⟨count, depth, disabled⟩
  | admission s H k r q spill enabled room =>
    rw [chargedTo_none] at count
    rw [chargedTo_enqueue.length_eq, List.length_append, length_onlyFor]
    dsimp only at count depth disabled ⊢
    rw [State.queue_enqueue]
    split
    · rename_i same
      subst same
      exact ⟨by dsimp only; omega, room, fun off => absurd enabled (by rw [off]; decide)⟩
    · exact ⟨by omega, depth, disabled⟩
  | evict s H k r q spill head rest enabled list =>
    rw [chargedTo_none, (chargedTo_evictHead list).length_eq, List.length_append, length_onlyFor] at count
    rw [chargedTo_enqueue.length_eq, List.length_append, length_onlyFor]
    dsimp only at count depth disabled ⊢
    rw [State.queue_enqueue, State.queue_evictHead, State.queue_evictHead, if_pos rfl]
    split
    · rename_i same
      subst same
      rw [if_pos rfl] at count
      dsimp only
      exact ⟨by omega, by omega, fun off => absurd enabled (by rw [off]; decide)⟩
    · rename_i other
      rw [if_neg other] at count
      exact ⟨by omega, depth, disabled⟩
  | requeue s H k r q =>
    rw [(chargedTo_requeue _).length_eq]
    dsimp only
    rw [State.queue_setList]
    split
    · rename_i same; subst same; exact ⟨count, depth, disabled⟩
    · exact ⟨count, depth, disabled⟩
  | claim s H k r q i c empty =>
    rw [(chargedTo_claim empty).length_eq, List.length_append, length_onlyFor]
    rw [chargedTo_some.length_eq, List.length_append, length_onlyFor] at count
    exact ⟨count, depth, disabled⟩
  | extend s H k i o c occupied =>
    rw [(chargedTo_extend occupied).length_eq]
    exact ⟨count, depth, disabled⟩
  | config s H k q c range spill enabled limit =>
    have list : (((s.setQueue q { s.queue q with config := c }).evalDue q).queue p).list = (s.queue p).list := by
      rw [State.queue_evalDue, State.queue_setQueue]; split
      · rename_i same; rw [same]
      · rfl
    rw [chargedTo_congr list rfl]
    dsimp only
    rw [State.queue_evalDue, State.queue_setQueue]
    split
    · rename_i same; subst same; exact ⟨count, limit, enabled⟩
    · exact ⟨count, depth, disabled⟩
  | count s H k q f range =>
    have list : ((s.countQueue q f).queue p).list = (s.queue p).list := by
      rw [State.queue_countQueue]; split
      · rename_i same; rw [same]
      · rfl
    rw [chargedTo_congr list rfl]
    dsimp only
    rw [State.queue_countQueue]
    split
    · rename_i same; subst same; exact ⟨count, depth, disabled⟩
    · exact ⟨count, depth, disabled⟩

end Sys2Proof.Machine
end

section
/-! The laws that speak of the records alone (R1 to R7, R95 to R98): how such a law is shown to hold after every effect, when the
changes that the effects on lanes and queues are made of keep it. -/
namespace Sys2Proof.Machine

/-- The lanes, the Record Store, the intake list, the walk, the queues and the slots are as they were. -/
structure SameRecords (s t : State) : Prop where
  lanes : t.lanes = s.lanes
  store : t.store = s.store
  intake : t.classifier.intake = s.classifier.intake
  walk : t.classifier.walk = s.classifier.walk
  queues : t.queues = s.queues
  slots : t.slots = s.slots

namespace SameRecords

theorem refl (s : State) : SameRecords s s := ⟨rfl, rfl, rfl, rfl, rfl, rfl⟩

theorem trans {a b c : State} (h : SameRecords a b) (k : SameRecords b c) : SameRecords a c :=
  ⟨k.1.trans h.1, k.2.trans h.2, k.3.trans h.3, k.4.trans h.4, k.5.trans h.5, k.6.trans h.6⟩

theorem of_linkSide {s t : State} (h : LinkSide s t) : SameRecords s t :=
  ⟨h.lanes, h.store, by rw [h.classifier], by rw [h.classifier], h.queues, h.slots⟩

theorem lane {s t : State} (h : SameRecords s t) (n : LaneId) : t.lane n = s.lane n := by unfold State.lane; rw [h.lanes]

theorem queue {s t : State} (h : SameRecords s t) (q : QueueId) : t.queue q = s.queue q := by unfold State.queue; rw [h.queues]

theorem slot {s t : State} (h : SameRecords s t) (i : SlotId) : t.slot i = s.slot i := by unfold State.slot; rw [h.slots]

theorem heldRecords {s t : State} (h : SameRecords s t) : heldRecords t = heldRecords s := by
  simp only [Machine.heldRecords, h.lane, h.intake, h.walk, h.queue, h.slot]

theorem takeCommit (s : State) : SameRecords s s.takeCommit := by
  unfold State.takeCommit
  split
  · dsimp only
    split
    · exact trans (b := { s with classifier := s.classifier.commit, link := { s.link with executing := none } })
        ⟨rfl, rfl, rfl, rfl, rfl, rfl⟩ (of_linkSide (.takeWaitingSyncs (.finish (.refl _))))
    · exact ⟨rfl, rfl, rfl, rfl, rfl, rfl⟩
  · exact refl s

theorem commitRequest (s : State) (r : Frame) : SameRecords s (s.commitRequest r) := by
  unfold State.commitRequest
  split
  · exact of_linkSide (.finish (.refl s))
  · split
    · exact ⟨rfl, rfl, rfl, rfl, rfl, rfl⟩
    · exact trans (b := { s with classifier := s.classifier.commit }) ⟨rfl, rfl, rfl, rfl, rfl, rfl⟩
        (of_linkSide (.finish (.refl _)))

end SameRecords

/-- What a new watermark does to the records' store does not depend on the Notice Unit (R18). -/
theorem SameRecords.setWatermark (s : State) (n : Notice) (w : Nat) :
    SameRecords (s.setWatermark w) (({ s with notice := n } : State).setWatermark w) := by
  unfold State.setWatermark State.storeLowTest
  dsimp only
  split
  · split <;> exact ⟨rfl, rfl, rfl, rfl, rfl, rfl⟩
  · exact ⟨rfl, rfl, rfl, rfl, rfl, rfl⟩

theorem noticeConfigArg_range {body : List Byte} {enable : Bool} {interval watermark : Nat}
    (h : noticeConfigArg body = some (enable, interval, watermark)) :
    (interval = 0 ∨ (10 ≤ interval ∧ interval ≤ 60000)) ∧ watermark ≤ 1023 := by
  unfold noticeConfigArg at h
  split at h
  · simp only [Option.ite_none_right_eq_some, Option.some.injEq, Prod.mk.injEq] at h
    obtain ⟨⟨-, interval, watermark⟩, -, rfl, rfl⟩ := h
    exact ⟨interval, watermark⟩
  · cases h

/-- An effect on the Notice Unit alone leaves the records as they are, but for a new watermark (R18). -/
theorem NoticeEffect.records {s t : State} (h : NoticeEffect s t) :
    SameRecords s t ∨ ∃ w ≤ 1023, SameRecords (s.setWatermark w) t := by
  cases h with
  | noticeAck body => exact .inl (by rw [noticeAckAct_eq]; exact ⟨rfl, rfl, rfl, rfl, rfl, rfl⟩)
  | noticeConfig body =>
    unfold noticeConfigAct
    split
    · exact .inl (.refl s)
    · rename_i enable interval watermark arg
      refine .inr ⟨watermark, (noticeConfigArg_range arg).2,
        (SameRecords.setWatermark s { s.notice with enabled := enable, interval := interval } watermark).trans ?_⟩
      exact ⟨rfl, rfl, rfl, rfl, rfl, rfl⟩
  | renew => exact .inl ⟨rfl, rfl, rfl, rfl, rfl, rfl⟩
  | hold => exact .inl ⟨rfl, rfl, rfl, rfl, rfl, rfl⟩

/-- How a law P that speaks of the records alone holds after an effect, when a condition Pre holds before it. -/
theorem Effect.keeps_records {Pre P : State → Prop} (weaken : ∀ s, Pre s → P s)
    (samePre : ∀ s t, SameRecords s t → Pre s → Pre t) (same : ∀ s t, SameRecords s t → P s → P t)
    (powerOn : ∀ pending lines running rate, P (.powerOn pending lines running rate))
    (lane : ∀ s t, Pre s → LaneEffect s t → P t) (queue : ∀ s t, Pre s → QueueEffect s t → P t)
    (watermark : ∀ s w, w ≤ 1023 → Pre s → P (s.setWatermark w)) (reset : ∀ s, Pre s → P s.storeReset)
    (counters : ∀ s g, Pre s → P (s.clearGroup g)) {s t : State}
    (walk : ∀ w, s.classifier.walk = some w → Pre s → P (s.endWalk w)) (h : Effect s t) (before : Pre s) : P t := by
  have law : P s := weaken s before
  have poppedPre : Pre s.popRequest := samePre s _ ⟨rfl, rfl, rfl, rfl, rfl, rfl⟩ before
  have popped : P s.popRequest := weaken _ poppedPre
  have notice : ∀ s t, Pre s → NoticeEffect s t → P t := fun s t before h => by
    obtain records | ⟨w, range, records⟩ := h.records
    · exact same _ _ records (weaken s before)
    · exact same _ _ records (watermark s w range before)
  cases h with
  | none => exact law
  | powerOn => exact powerOn _ _ _ _
  | lane _ h => exact lane s t before h
  | queue _ h => exact queue s t before h
  | notice _ h => exact notice s t before h
  | linkError => exact same _ _ (.of_linkSide (.linkErrorTaken (.refl s))) law
  | frame => exact same _ _ (.of_linkSide (.frameArrives (.refl s))) law
  | frameSent =>
    obtain reset | side := LinkSide.frameSent s
    · rw [reset]; exact powerOn _ _ _ _
    · exact same _ _ (.of_linkSide side) law
  | serveNotice => exact same _ _ (.of_linkSide (.serveNotice (.refl s))) law
  | answered r rest body starts h =>
    rename_i u
    refine same u _ (.of_linkSide (.finish (.refl u))) ?_
    cases h with
    | none => exact popped
    | lane h => exact lane _ _ poppedPre h
    | queue h => exact queue _ _ poppedPre h
    | notice h => exact notice _ _ poppedPre h
    | ruleSet body => exact same s.popRequest _ (by unfold ruleSetAct; split <;> exact ⟨rfl, rfl, rfl, rfl, rfl, rfl⟩) popped
    | defaultSet body =>
      exact same s.popRequest _ (by unfold defaultSetAct; split <;> exact ⟨rfl, rfl, rfl, rfl, rfl, rfl⟩) popped
    | rulesRevert body => exact same s.popRequest _ ⟨rfl, rfl, rfl, rfl, rfl, rfl⟩ popped
    | linkConfig body => exact same _ _ (.of_linkSide (.linkConfigAct (.refl _))) popped
    | clearError body => exact same s.popRequest _ ⟨rfl, rfl, rfl, rfl, rfl, rfl⟩ popped
    | clearGroup g => exact counters _ g poppedPre
    | storeReset => exact reset _ poppedPre
  | commit r => exact same _ _ (.commitRequest _ r) popped
  | resetPart r => exact same s _ (.of_linkSide (.finishWith (.setLink (.popRequest (.refl s))))) law
  | walkEnd _ w inFlight => exact walk w inFlight before

theorem LaneChain.keeps {P : State → Prop} (flow : ∀ s t, LaneFlow s t → P s → P t) {s t : State} (h : LaneChain s t)
    (law : P s) : P t := by
  induction h with
  | refl => exact law
  | tail _ last ih => exact flow _ _ last ih

theorem QueueChain.keeps {P : Handling → Prop} (flow : ∀ a b, QueueFlow a b → P a → P b) {a b : Handling}
    (h : QueueChain a b) (law : P a) : P b := by
  induction h with
  | refl => exact law
  | tail _ last ih => exact flow _ _ last ih

theorem Classifier.countDecision_generation (rule : Option Nat) (c : Classifier) :
    (c.countDecision rule).generation = c.generation := by
  cases rule <;> rfl

/-- The Classifier with its walk decided and over, before the outcome is handed on (R77). -/
def State.decided (s : State) (w : Walk) : State :=
  { s with classifier := { s.classifier.countDecision (s.classifier.active.judge w.record).1 with walk := none } }

/-- The record of a walk as the decision leaves it (R77). -/
def State.outcome (s : State) (w : Walk) : Record :=
  QueueChain.decidedRecord (s.classifier.active.judge w.record).2 s.classifier.generation w.record

/-- A law is kept by the hand-over of a walk's outcome when it holds with the walk's record in hand. -/
theorem State.handOn_law {law : Handling → Prop} (flow : ∀ a b, QueueFlow a b → law a → law b) {s : State} {w : Walk}
    (start : law ⟨s.decided w, [(s.outcome w, none)], 0⟩) :
    law ⟨(s.decided w).handOn (s.classifier.active.judge w.record).2 w.record, [], 1⟩ := by
  refine QueueChain.keeps flow (QueueChain.handOn ?_) start
  rw [show (s.decided w).classifier.generation = s.classifier.generation from Classifier.countDecision_generation _ _]
  exact .refl

/-- How a law that speaks of the records alone holds after the end of a walk: with the walk's record in hand it is kept by every
change of the queues, and then the next walk begins (R70, R71). -/
theorem State.endWalk_records {P : State → Prop} {law : Handling → Prop} (settled : ∀ s k, law ⟨s, [], k⟩ → P s)
    (flow : ∀ a b, QueueFlow a b → law a → law b) (same : ∀ s t, SameRecords s t → P s → P t)
    (begin_ : ∀ s, s.classifier.walk = none → P s → P { s with classifier := s.classifier.beginWalk s.clock })
    {s : State} {w : Walk}
    (start : law ⟨s.decided w, [(s.outcome w, none)], 0⟩) : P (s.endWalk w) := by
  have handed := settled _ _ (State.handOn_law flow start)
  have committed := SameRecords.takeCommit ((s.decided w).handOn (s.classifier.active.judge w.record).2 w.record)
  have idle := congrArg Classifier.walk
    (State.handOn_classifier (s := s.decided w) (s.classifier.active.judge w.record).2 w.record)
  exact begin_ _ (committed.walk.trans idle) (same _ _ committed handed)

/-- What one step is: the effect of a command on the part as it is or as the taking of a character leaves it, the taking alone,
or the passing of a microsecond. -/
theorem step_cases {s t : State} (h : step s = .next t) :
    (∃ i u, ((∃ cs, u = { s with pending := cs }) ∨ Takes s u) ∧ exec i u = .next t) ∨ Takes s t ∨
      (s.ownEvent = none ∧ t = s.tick) := by
  unfold step at h
  split at h
  · exact .inl ⟨_, _, .inl ⟨_, rfl⟩, h⟩
  · split at h
    · exact .inl ⟨_, s, .inl ⟨s.pending, rfl⟩, h⟩
    · split at h
      · exact .inl ⟨_, _, .inr (State.receive_takes ‹_›), h⟩
      · cases h
        exact .inr (.inl (State.receive_takes ‹_›))
      · cases h
        exact .inr (.inr ⟨‹_›, rfl⟩)

/-- A law P that speaks of the records alone holds after every step when a condition Pre, which the taking of a character keeps,
holds before it and every effect then brings P. -/
theorem step_keeps_records {Pre P : State → Prop} (weaken : ∀ s, Pre s → P s)
    (samePre : ∀ s t, SameRecords s t → Pre s → Pre t) (same : ∀ s t, SameRecords s t → P s → P t)
    (powerOn : ∀ pending lines running rate, P (.powerOn pending lines running rate))
    (takes : ∀ s t, Takes s t → Pre s → Pre t) (effect : ∀ s t, Effect s t → Pre s → P t) {s t : State}
    (h : step s = .next t) (before : Pre s) : P t := by
  obtain ⟨i, u, start, h⟩ | taken | ⟨-, rfl⟩ := step_cases h
  · have before : Pre u := by
      obtain ⟨cs, rfl⟩ | taken := start
      · exact samePre s _ ⟨rfl, rfl, rfl, rfl, rfl, rfl⟩ before
      · exact takes s u taken before
    exact exec_keeps powerOn (fun t h => effect u t h before) h
  · exact weaken t (takes s t taken before)
  · exact same s _ ⟨rfl, rfl, rfl, rfl, rfl, rfl⟩ (weaken s before)

end Sys2Proof.Machine
end

section
/-! The charge law (R95, R96) after every step: the effects on the lanes leave the queues alone, and every change of the queues
keeps the law. -/
namespace Sys2Proof.Machine

/-! ## What the effects leave aside -/

theorem LaneEffect.side {s t : State} (h : LaneEffect s t) : LaneSide s t := by
  cases h with
  | goodFrame => exact .laneGoodFrame (.refl s)
  | frameFails => exact .laneFrameFails (.refl s)
  | restartProbe => exact .mapLane (.refl s)
  | probeWindowOver => exact .raise (.mapLane (.refl s))
  | lost => exact .loseLane (.refl s)
  | closed => exact .closingEnd (.refl s)
  | refreshed => exact .mapLane (.refl s)
  | frameSent => exact .mapLane (.refl s)
  | headerDecided => exact .headerDecision (.recordBytes (.refl s))
  | headerPassed => exact .receiveRecord (.recordBytes (.refl s))
  | shortRecord => exact .shortRecordEnd (.recordBytes (.refl s))
  | recordGood => exact .recordGood (.recordBytes (.refl s))
  | recordBad => exact .recordBad (.recordBytes (.refl s))
  | frameEnd => exact .frameEnd (.recordBytes (.refl s))
  | grant => exact .grant (.refl s)
  | laneConfig => exact .laneConfigAct (.refl s)
  | laneOpen => exact .laneOpenAct (.refl s)
  | laneClose => exact .laneCloseAct (.refl s)
  | laneAbort => exact .laneAbortAct (.refl s)

theorem QueueEffect.side {s t : State} (h : QueueEffect s t) : QueueSide s t := by
  cases h with
  | queueConfig => exact .queueConfigAct (.refl s)
  | queuePurge => exact .queuePurgeAct (.refl s)
  | fetch => exact .fetchAct (.refl s)
  | release => exact .settleAct (fun _ _ h => h.releaseHandle) (.refl s)
  | returnHandles => exact .settleAct (fun _ _ h => h.returnHandle) (.refl s)
  | extend => exact .settleAct (fun _ _ h => h.extendHandle) (.refl s)
  | leaseExpired => exact .expireLease (.refl s)

/-! ## The charge law -/

theorem ChargeLaw.of_eq {s t : State} (h : ChargeLaw s) (queues : t.queues = s.queues) (slots : t.slots = s.slots) :
    ChargeLaw t := by
  have queue : ∀ q, t.queue q = s.queue q := fun q => by unfold State.queue; rw [queues]
  have slot : ∀ i, t.slot i = s.slot i := fun i => by unfold State.slot; rw [slots]
  simpa only [ChargeLaw, outstandingFrom, queue, slot] using h

theorem ChargeLaw.same {s t : State} (same : SameRecords s t) (h : ChargeLaw s) : ChargeLaw t :=
  h.of_eq same.queues same.slots

/-- Empty queues without a charge, and empty slots, meet the charge law. -/
theorem ChargeLaw.of_empty {s : State} (queues : ∀ q, (s.queue q).list = [] ∧ (s.queue q).charge = 0)
    (slots : ∀ i, (s.slot i).occupant = none) : ChargeLaw s := by
  intro q
  obtain ⟨list, charge⟩ := queues q
  have outstanding : outstandingFrom s q = 0 := by simp [outstandingFrom, slots]
  refine ⟨?_, ?_, fun _ => charge⟩
  · rw [charge, outstanding, Queue.queued, list]; rfl
  · rw [charge]; exact Nat.zero_le _

theorem State.queue_powerOn (pending lines running rate) (q : QueueId) :
    (State.powerOn pending lines running rate).queue q = .powerOn (decide (q = 0)) := by
  have written := vector_set_get (Vector.replicate 8 (Queue.powerOn false)) 0 q (.powerOn true)
  unfold State.queue State.powerOn
  dsimp only
  refine written.trans ?_
  by_cases first : q = 0
  · rw [if_pos first.symm, decide_eq_true first]
  · rw [if_neg (Ne.symm first), decide_eq_false first, Fin.getElem_fin, Vector.getElem_replicate]

theorem State.slot_powerOn (pending lines running rate) (i : SlotId) :
    (State.powerOn pending lines running rate).slot i = .powerOn := by
  simp [State.slot, State.powerOn, Fin.getElem_fin]

theorem State.lane_powerOn (pending lines running rate) (n : LaneId) :
    (State.powerOn pending lines running rate).lane n = .powerOn := by
  simp [State.lane, State.powerOn, Fin.getElem_fin]

theorem ChargeLaw.powerOn (pending lines running rate) : ChargeLaw (.powerOn pending lines running rate) :=
  .of_empty (fun q => by rw [State.queue_powerOn]; exact ⟨rfl, rfl⟩) (fun i => by rw [State.slot_powerOn]; rfl)

/-- RESET(STORE) leaves the lanes' part of it aside: what the one event does to queues and slots stays (R177). -/
theorem State.storeReset_side (s : State) : LaneSide s.storeResetBlocks s.storeReset :=
  .grantMany (.foldCheck (.refl _))

theorem State.queue_storeReset (s : State) (q : QueueId) : s.storeReset.queue q = { s.queue q with list := [], charge := 0 } := by
  have queues := s.storeReset_side.queues
  unfold State.queue
  rw [queues]
  exact mapVec_get Queue.storeReset s.queues q

theorem State.slot_storeReset (s : State) (i : SlotId) : s.storeReset.slot i = ⟨(s.slot i).issue + 1, none⟩ := by
  have slots := s.storeReset_side.slots
  unfold State.slot
  rw [slots]
  exact mapVec_get Slot.storeReset s.slots i

/-- A queue's counters set to 0 are in range. -/
theorem QueueCounters.zero_inRange : QueueCounters.zero.InRange := by simp [QueueCounters.zero]

/-- A change of the queues, with nothing in hand, that keeps the charge law. -/
theorem ChargeLaw.flow {s t : State} {j k : Nat} (h : QueueFlow ⟨s, [], j⟩ ⟨t, [], k⟩) (law : ChargeLaw s) : ChargeLaw t :=
  (chargeLaw_iff t k).2 (h.keeps_ChargeLaw ((chargeLaw_iff s j).1 law))

theorem ChargeLaw.clearGroup {s : State} (g : CounterGroup) (law : ChargeLaw s) : ChargeLaw (s.clearGroup g) := by
  cases g with
  | lane | rules | link => exact law.of_eq rfl rfl
  | queue q => exact law.flow (.count s [] 0 q _ fun _ _ => QueueCounters.zero_inRange)

theorem ChargeLaw.endWalk {s : State} (w : Walk) (law : ChargeLaw s) : ChargeLaw (s.endWalk w) := by
  refine State.endWalk_records (law := Handling.ChargeLaw) (fun s k => (chargeLaw_iff s k).2)
    (fun _ _ => QueueFlow.keeps_ChargeLaw) (fun _ _ => ChargeLaw.same) (fun s _ law => law.of_eq rfl rfl) fun q => ?_
  rw [chargedTo_none]
  exact (chargeLaw_iff s 0).1 law q

theorem Effect.keeps_ChargeLaw {s t : State} (h : Effect s t) (law : ChargeLaw s) : ChargeLaw t := by
  refine h.keeps_records (fun _ => id) (fun _ _ => ChargeLaw.same) (fun _ _ => ChargeLaw.same) ChargeLaw.powerOn
    ?lane ?queue ?watermark ?reset ?counters ?walk law
  case lane => exact fun s t law h => law.of_eq h.side.queues h.side.slots
  case queue =>
    intro s t law h
    obtain ⟨k, -, chain⟩ := h.chain
    exact (chargeLaw_iff t k).2 (chain.keeps (fun _ _ => QueueFlow.keeps_ChargeLaw) ((chargeLaw_iff s 0).1 law))
  case watermark =>
    intro s w _ law
    have side : LaneSide s (s.setWatermark w) := .setWatermark (.refl s)
    exact law.of_eq side.queues side.slots
  case reset =>
    refine fun s _ => .of_empty (fun q => ?_) fun i => by rw [State.slot_storeReset]
    rw [State.queue_storeReset]
    exact ⟨rfl, rfl⟩
  case counters => exact fun s g law => law.clearGroup g
  case walk => exact fun w _ law => law.endWalk w

theorem step_keeps_ChargeLaw {s t : State} (law : ChargeLaw s) (h : step s = .next t) : ChargeLaw t := by
  refine step_keeps_records (fun _ => id) (fun _ _ => ChargeLaw.same) (fun _ _ => ChargeLaw.same) ChargeLaw.powerOn ?_
    (fun _ _ h => h.keeps_ChargeLaw) h law
  rintro s t (⟨k, line⟩ | ⟨n, k, line⟩) law
  · exact law.of_eq rfl rfl
  · exact law.of_eq rfl rfl

end Sys2Proof.Machine
end

section
/-! The order law (R97, R98, R104): the admission numbers of a queue's records, and their ages as the counter moves on by at most
64 in a step. -/
namespace Sys2Proof.Machine

/-- The admission number of a record, 0 for one that has none (R97). -/
def Record.number (r : Record) : Word := r.admission.getD 0

/-- The admission numbers of the records charged to q. -/
def Handling.numbers (a : Handling) (q : QueueId) : List Word := (a.chargedTo q).map Record.number

/-- Queue q inside a step: its list stands by age, and no number of its records comes twice or is about to wrap (R98). -/
structure Handling.OrderedIn (a : Handling) (q : QueueId) : Prop where
  sorted : (a.state.queue q).list.Pairwise fun x y => (a.state.queue q).age y < (a.state.queue q).age x
  distinct : (a.numbers q).Nodup
  young : ∀ m ∈ a.numbers q, ((a.state.queue q).admissionCounter - m).toNat + 64 < 4294967296 + a.admitted

/-- The order law inside a step of at most 64 admissions. -/
def Handling.OrderLaw (a : Handling) : Prop := a.admitted ≤ 64 → ∀ q, a.OrderedIn q

theorem orderLaw_of_handling {s : State} {k : Nat} (bound : k ≤ 64) (h : Handling.OrderLaw ⟨s, [], k⟩) : OrderLaw s := by
  intro q
  obtain ⟨sorted, distinct, -⟩ := h bound q
  unfold Handling.numbers at distinct
  rw [Handling.chargedTo_nil] at distinct
  exact ⟨sorted, distinct⟩

theorem handling_of_orderLaw {s : State} (ages : AgesBelowWrap s) (order : OrderLaw s) : Handling.OrderLaw ⟨s, [], 0⟩ := by
  intro _ q
  obtain ⟨sorted, distinct⟩ := order q
  refine ⟨sorted, ?_, ?_⟩
  · unfold Handling.numbers
    rw [Handling.chargedTo_nil]
    exact distinct
  · unfold Handling.numbers
    rw [Handling.chargedTo_nil]
    exact List.forall_mem_map.2 fun r hr => ages q r hr

section
variable {a b : Handling} {s : State} {q p : QueueId} {H : List (Record × Option QueueId)} {k : Nat} {r : Record}

/-- A queue that gives records away, or takes none, stays in order. -/
theorem Handling.OrderedIn.sub (h : a.OrderedIn q) (list : List.Sublist (b.state.queue q).list (a.state.queue q).list)
    (counter : (b.state.queue q).admissionCounter = (a.state.queue q).admissionCounter)
    (numbers : List.Subperm (b.numbers q) (a.numbers q)) (admitted : a.admitted ≤ b.admitted) : b.OrderedIn q := by
  have age : (b.state.queue q).age = (a.state.queue q).age := by funext x; simp only [Queue.age, counter]
  refine ⟨?_, ?_, fun m hm => ?_⟩
  · rw [age]; exact h.sorted.sublist list
  · obtain ⟨l, perm, sub⟩ := numbers
    exact perm.nodup_iff.1 (h.distinct.sublist sub)
  · rw [counter]
    have := h.young m (numbers.subset hm)
    omega

/-- The same, when the records charged to the queue are a part of those before. -/
theorem Handling.OrderedIn.part {rest : List Record} (h : a.OrderedIn q)
    (list : List.Sublist (b.state.queue q).list (a.state.queue q).list)
    (counter : (b.state.queue q).admissionCounter = (a.state.queue q).admissionCounter)
    (charged : (a.chargedTo q).Perm (rest ++ b.chargedTo q)) (admitted : a.admitted ≤ b.admitted) : b.OrderedIn q :=
  h.sub list counter ((((List.sublist_append_right _ _).map _).subperm).trans (charged.symm.map Record.number).subperm) admitted

/-- An admission to a queue in order: every age rises by one, and the new record's is 0 (R97 to R99). -/
theorem Handling.OrderedIn.enqueue {spill : Bool} (h : Handling.OrderedIn ⟨s, H, k⟩ q) (bound : k + 1 ≤ 64) :
    Handling.OrderedIn ⟨s.enqueue p spill r, H, k + 1⟩ q := by
  have charged : (Handling.chargedTo ⟨s.enqueue p spill r, H, k + 1⟩ q).Perm _ := chargedTo_enqueue
  by_cases same : p = q
  · subst same
    have number : ((s.queue p).admitted p r).number = (s.queue p).admissionCounter + 1 := rfl
    have numbers := charged.map Record.number
    rw [onlyFor, if_pos rfl, List.singleton_append, List.map_cons, number] at numbers
    have written := State.queue_enqueue s p p spill r
    rw [if_pos rfl] at written
    obtain ⟨sorted, distinct, young⟩ := h
    have older : ∀ m ∈ Handling.numbers ⟨s, H, k⟩ p, ((s.queue p).admissionCounter + 1 - m).toNat =
        ((s.queue p).admissionCounter - m).toNat + 1 := fun m hm => by
      have := young m hm
      dsimp only at this
      bv_omega
    have listed : ∀ x ∈ (s.queue p).list, x.number ∈ Handling.numbers ⟨s, H, k⟩ p := fun x hx =>
      List.mem_map_of_mem (List.mem_append_left _ (List.mem_append_left _ hx))
    refine ⟨?_, numbers.nodup_iff.2 (List.nodup_cons.2 ⟨fun mem => ?_, distinct⟩), fun m hm => ?_⟩
    · dsimp only
      rw [written]
      dsimp only
      refine List.pairwise_append.2 ⟨?_, List.pairwise_singleton _ _, fun x hx y hy => ?_⟩
      · refine sorted.imp_of_mem fun {x y} hx hy lt => ?_
        have x' := older _ (listed x hx)
        have y' := older _ (listed y hy)
        simp only [Queue.age, Record.number] at lt x' y' ⊢
        omega
      · rw [List.mem_singleton.1 hy]
        have x' := older _ (listed x hx)
        simp only [Queue.age, Record.number, Queue.admitted, Option.getD_some] at x' ⊢
        rw [x', BitVec.sub_self]
        exact Nat.succ_pos _
    · have := young _ mem
      dsimp only at this
      bv_omega
    · dsimp only
      rw [written]
      obtain rfl | before := List.mem_cons.1 (numbers.subset hm)
      · dsimp only
        rw [BitVec.sub_self]
        simp
        omega
      · have aged := older m before
        have := young m before
        dsimp only at this ⊢
        omega
  · have kept := State.queue_enqueue s p q spill r
    rw [if_neg same] at kept
    rw [onlyFor, if_neg same, List.nil_append] at charged
    exact h.part (rest := []) (by dsimp only; rw [kept]) (by dsimp only; rw [kept]) charged.symm (by dsimp only; omega)

end

/-- The order law is kept by every change of the queues (R98, R104). -/
theorem QueueFlow.keeps_OrderLaw {a b : Handling} (h : QueueFlow a b) (law : a.OrderLaw) : b.OrderLaw := by
  intro bound p
  cases h with
  | skip s H k => exact (law (by dsimp only at bound ⊢; omega) p).part (rest := []) (.refl _) rfl .rfl (Nat.le_succ k)
  | free s H k r => exact (law bound p).part (rest := []) (.refl _) rfl (.of_eq chargedTo_none) le_rfl
  | spill s H k r =>
    exact (law bound p).part (rest := []) (.refl _) rfl (.of_eq (chargedTo_none.trans chargedTo_none.symm)) le_rfl
  | countClassifier | raise => exact (law bound p).part (rest := []) (.refl _) rfl .rfl le_rfl
  | pull s H k q pulled rest list =>
    refine (law bound p).part (rest := []) ?_ ?_ (chargedTo_pull list).symm le_rfl <;> dsimp only <;>
      rw [State.queue_setList] <;> split
    · rename_i same
      rw [← same, list]
      exact List.sublist_append_right _ _
    · exact .refl _
    · rename_i same
      rw [same]
    · rfl
  | unslot s H k i o occupied => exact (law bound p).part (rest := []) (.refl _) rfl (chargedTo_unslot occupied).symm le_rfl
  | uncharge s H k r q =>
    refine (law bound p).part ?_ ?_ chargedTo_uncharge le_rfl <;> dsimp only <;> rw [State.queue_chargeDown] <;> split
    · rename_i same; rw [same]
    · exact .refl _
    · rename_i same; rw [same]
    · rfl
  | admission s H k r q spill enabled room =>
    exact ((law (by dsimp only at bound ⊢; omega) p).part (b := ⟨s, H, k⟩) (rest := []) (.refl _) rfl (.of_eq chargedTo_none)
      le_rfl).enqueue bound
  | evict s H k r q spill head rest enabled list =>
    refine ((law (by dsimp only at bound ⊢; omega) p).part (b := ⟨s.evictHead q head rest, H, k⟩) ?_ ?_
      ((List.Perm.of_eq chargedTo_none).trans (chargedTo_evictHead list)) le_rfl).enqueue bound <;> dsimp only <;>
      rw [State.queue_evictHead] <;> split
    · rename_i same
      rw [← same, list]
      exact List.sublist_cons_self _ _
    · exact .refl _
    · rename_i same; rw [same]
    · rfl
  | requeue s H k r q =>
    have before := law bound p
    have numbers := ((chargedTo_requeue (H := H) (k := k) (p := p) (q := q) (r := r) (s := s) (s.queue q).age).map
      Record.number)
    have counter : ((s.setList q (insertByAge (s.queue q).age r (s.queue q).list)).queue p).admissionCounter =
        (s.queue p).admissionCounter := by
      rw [State.queue_setList]; split
      · rename_i same; rw [same]
      · rfl
    refine ⟨?_, numbers.nodup_iff.2 before.distinct, fun m hm => ?_⟩
    · dsimp only
      rw [State.queue_setList]
      split
      · rename_i same
        subst same
        dsimp only
        rw [insertByAge_eq]
        refine pairwise_insertByAge before.sorted fun y hy ages => ?_
        have numbers := before.distinct
        unfold Handling.numbers at numbers
        rw [(chargedTo_some.map Record.number).nodup_iff, onlyFor, if_pos rfl, List.singleton_append, List.map_cons] at numbers
        refine (List.nodup_cons.1 numbers).1 (List.mem_map.2 ⟨y, List.mem_append_left _ (List.mem_append_left _ hy), ?_⟩)
        simp only [Queue.age, Record.number] at ages ⊢
        bv_omega
      · exact before.sorted
    · dsimp only
      rw [counter]
      exact before.young m (numbers.subset hm)
  | claim s H k r q i c empty =>
    refine (law bound p).sub (.refl _) rfl (List.Perm.subperm ?_) le_rfl
    refine ((chargedTo_claim empty).map Record.number).trans ?_
    refine .trans (.of_eq ?_) (chargedTo_some.map Record.number).symm
    rw [List.map_append, List.map_append]
    congr 1
    unfold onlyFor
    split <;> rfl
  | extend s H k i o c occupied => exact (law bound p).part (rest := []) (.refl _) rfl (chargedTo_extend occupied).symm le_rfl
  | config s H k q c =>
    have list : ∀ x, (((s.setQueue q { s.queue q with config := c }).evalDue q).queue p) = x →
        x.list = (s.queue p).list ∧ x.admissionCounter = (s.queue p).admissionCounter := by
      rintro x rfl
      rw [State.queue_evalDue, State.queue_setQueue]
      split
      · rename_i same; rw [← same]; exact ⟨rfl, rfl⟩
      · exact ⟨rfl, rfl⟩
    obtain ⟨list, counter⟩ := list _ rfl
    exact (law bound p).part (rest := []) (by dsimp only; rw [list]) counter (.of_eq (chargedTo_congr list rfl).symm) le_rfl
  | count s H k q f =>
    have list : ∀ x, (s.countQueue q f).queue p = x →
        x.list = (s.queue p).list ∧ x.admissionCounter = (s.queue p).admissionCounter := by
      rintro x rfl
      rw [State.queue_countQueue]
      split
      · rename_i same; rw [← same]; exact ⟨rfl, rfl⟩
      · exact ⟨rfl, rfl⟩
    obtain ⟨list, counter⟩ := list _ rfl
    exact (law bound p).part (rest := []) (by dsimp only; rw [list]) counter (.of_eq (chargedTo_congr list rfl).symm) le_rfl

/-! ## Every step -/

/-- No record's age is about to wrap, and the records stand in order. -/
def YoungOrder (s : State) : Prop := AgesBelowWrap s ∧ OrderLaw s

theorem OrderLaw.of_eq {s t : State} (h : OrderLaw s) (queues : t.queues = s.queues) (slots : t.slots = s.slots) :
    OrderLaw t := by
  have queue : ∀ q, t.queue q = s.queue q := fun q => by unfold State.queue; rw [queues]
  have slot : ∀ i, t.slot i = s.slot i := fun i => by unfold State.slot; rw [slots]
  simpa only [OrderLaw, State.recordsOf, State.ageIn, queue, slot] using h

theorem AgesBelowWrap.of_eq {s t : State} (h : AgesBelowWrap s) (queues : t.queues = s.queues) (slots : t.slots = s.slots) :
    AgesBelowWrap t := by
  have queue : ∀ q, t.queue q = s.queue q := fun q => by unfold State.queue; rw [queues]
  have slot : ∀ i, t.slot i = s.slot i := fun i => by unfold State.slot; rw [slots]
  simpa only [AgesBelowWrap, State.recordsOf, State.ageIn, queue, slot] using h

theorem YoungOrder.of_eq {s t : State} (h : YoungOrder s) (queues : t.queues = s.queues) (slots : t.slots = s.slots) :
    YoungOrder t := ⟨h.1.of_eq queues slots, h.2.of_eq queues slots⟩

/-- Empty queues and empty slots are in order. -/
theorem OrderLaw.of_empty {s : State} (queues : ∀ q, (s.queue q).list = []) (slots : ∀ i, (s.slot i).occupant = none) :
    OrderLaw s := by
  intro q
  have none : s.recordsOf q = [] := by simp [State.recordsOf, queues, slots]
  rw [queues q, none]
  exact ⟨.nil, .nil⟩

theorem OrderLaw.powerOn (pending lines running rate) : OrderLaw (.powerOn pending lines running rate) :=
  .of_empty (fun q => by rw [State.queue_powerOn]; rfl) (fun i => by rw [State.slot_powerOn]; rfl)

theorem YoungOrder.clearGroup {s : State} (g : CounterGroup) (law : YoungOrder s) : OrderLaw (s.clearGroup g) := by
  cases g with
  | lane | rules | link => exact law.2.of_eq rfl rfl
  | queue q =>
    exact orderLaw_of_handling (k := 0) (by omega)
      ((QueueFlow.count s [] 0 q _ fun _ _ => QueueCounters.zero_inRange).keeps_OrderLaw (handling_of_orderLaw law.1 law.2))

theorem YoungOrder.endWalk {s : State} (w : Walk) (law : YoungOrder s) : OrderLaw (s.endWalk w) := by
  have start : Handling.OrderLaw ⟨s.decided w, [(s.outcome w, none)], 0⟩ := fun bound q =>
    (handling_of_orderLaw law.1 law.2 bound q).part (rest := []) (.refl _) rfl (.of_eq chargedTo_none.symm) le_rfl
  have handed := State.handOn_law (fun _ _ => QueueFlow.keeps_OrderLaw) start
  have committed := SameRecords.takeCommit ((s.decided w).handOn (s.classifier.active.judge w.record).2 w.record)
  exact (orderLaw_of_handling (by omega) handed).of_eq committed.queues committed.slots

theorem Effect.brings_OrderLaw {s t : State} (h : Effect s t) (law : YoungOrder s) : OrderLaw t := by
  refine h.keeps_records (fun _ law => law.2) (fun s t same law => law.of_eq same.queues same.slots)
    (fun s t same law => law.of_eq same.queues same.slots) OrderLaw.powerOn ?lane ?queue ?watermark ?reset ?counters ?walk law
  case lane => exact fun s t law h => law.2.of_eq h.side.queues h.side.slots
  case queue =>
    intro s t law h
    obtain ⟨k, bound, chain⟩ := h.chain
    exact orderLaw_of_handling (by omega)
      (chain.keeps (fun _ _ => QueueFlow.keeps_OrderLaw) (handling_of_orderLaw law.1 law.2))
  case watermark =>
    intro s w _ law
    have side : LaneSide s (s.setWatermark w) := .setWatermark (.refl s)
    exact law.2.of_eq side.queues side.slots
  case reset =>
    exact fun s _ => .of_empty (fun q => by rw [State.queue_storeReset]) fun i => by rw [State.slot_storeReset]
  case counters => exact fun s g law => law.clearGroup g
  case walk => exact fun w _ law => law.endWalk w

theorem step_brings_OrderLaw {s t : State} (law : YoungOrder s) (h : step s = .next t) : OrderLaw t := by
  refine step_keeps_records (fun _ law => law.2) (fun s t same law => law.of_eq same.queues same.slots)
    (fun s t same law => law.of_eq same.queues same.slots) OrderLaw.powerOn ?_ (fun _ _ h => h.brings_OrderLaw) h law
  rintro s t (⟨k, line⟩ | ⟨n, k, line⟩) law
  · exact law.of_eq rfl rfl
  · exact law.of_eq rfl rfl

/-- Settles O52: the changes that a step makes to the queues and slots keep each record charged to one queue, and the queues in
order as long as no age wraps. -/
theorem stepKeepsChargeLaw : Obligations.StepKeepsChargeLaw :=
  ⟨fun _ _ law h => step_keeps_ChargeLaw law h, fun _ _ ages order h => step_brings_OrderLaw ⟨ages, order⟩ h⟩

end Sys2Proof.Machine
end

section
/-! The credit law (R7, R9) after every step: the effects on the lanes keep it operation by operation, and nothing else lowers the
free counts or moves a window. -/
namespace Sys2Proof.Machine

/-- A STORE reset moves no window (R47). -/
theorem Lane.sw_storeReset (l : Lane) : l.SameWindow l.storeReset := by
  unfold Lane.storeReset
  split <;> exact ⟨rfl, rfl, rfl, rfl⟩

namespace CreditLaw

variable {s t : State}

theorem sameRecords (same : SameRecords s t) (h : CreditLaw s) : CreditLaw t :=
  h.of_eq same.lanes (by rw [same.store]) (by rw [same.store])

theorem recordBytes {n : LaneId} {bytes : List Byte} (h : CreditLaw s) : CreditLaw (s.recordBytes n bytes) := by
  have same := State.recordBytes_sameWindow s n bytes
  unfold State.recordBytes at same ⊢
  rw [State.lane_mapLane_same] at same
  exact h.mapLane n _ (same.creditLaw (h.1 n)) same.reservation.le

theorem setWatermark (h : CreditLaw s) (w : Nat) : CreditLaw (s.setWatermark w) := by
  unfold State.setWatermark
  dsimp only
  split
  · have counts := State.storeLowTest_store { s with store := { s.store with watermark := w } }
    exact h.of_eq (State.storeLowTest_lanes _) counts.1.ge counts.2.ge
  · exact h.of_eq rfl le_rfl le_rfl

/-- A probe exchange that fails leaves no reservation (R36). -/
theorem probeFails {n : LaneId} (h : CreditLaw s) (probing : (s.lane n).state = .probing) :
    CreditLaw (s.mapLane n fun l =>
      ({ l with state := .failed, pendingMissing := 0, timers := .stopped } : Lane).dropWaiting) := by
  obtain ⟨least, most, -, closed⟩ := h.1 n
  have idle : (s.lane n).reservation = 0 := closed (by simp [Lane.inSession, probing])
  exact h.mapLane n _ ⟨least, most, fun session => by simp [Lane.inSession, Lane.dropWaiting] at session, fun _ => idle⟩ le_rfl

theorem laneEffect (h : CreditLaw s) (e : LaneEffect s t) : CreditLaw t := by
  cases e with
  | goodFrame n kind body => exact h.laneGoodFrame n kind body
  | frameFails n => exact h.laneFrameFails n
  | restartProbe n => exact h.mapSame n _ Lane.sw_restartProbe
  | probeWindowOver n probing => exact (h.probeFails probing).raise _ _
  | lost n => exact h.loseLane n
  | closed n => exact h.closingEnd n
  | refreshed n => exact h.mapSame n _ (Lane.sw_dueCredit _)
  | frameSent n => exact h.mapSame n _ (Lane.sw_frameSent _)
  | headerDecided n => exact h.recordBytes.headerDecision n _ _ _ _
  | headerPassed n => exact h.recordBytes.receiveRecord n _ _ _
  | shortRecord n bytes good => exact h.recordBytes.shortRecordEnd n good
  | recordGood n covered rest crc inSession r => exact h.recordBytes.recordGood n r
  | recordBad n covered rest crc inSession r => exact h.recordBytes.recordBad n r
  | frameEnd n covered rest crc inSession good => exact h.recordBytes.frameEnd n inSession good
  | grant => exact h.grant
  | laneConfig body => exact h.laneConfigAct body
  | laneOpen body => exact h.laneOpenAct body
  | laneClose body =>
    unfold laneCloseAct
    split
    · exact h
    · exact State.eachItem_keeps (act := Machine.closeLane) (fun n _ h => h.closeLane n) h
  | laneAbort body =>
    unfold laneAbortAct
    split
    · exact h
    · exact State.eachItem_keeps (act := Machine.abortLane) (fun n _ h => h.abortLane n) h

/-- The four accounts together are at most 256 (R24). -/
theorem reserved_le (h : CreditLaw s) : s.reserved ≤ 256 := by
  have each : ∀ n, (s.lane n).reservation ≤ 64 := fun n => by
    obtain ⟨-, most, open_, closed⟩ := h.1 n
    cases session : (s.lane n).inSession with
    | true => exact (open_ session).trans most
    | false => rw [closed session]; exact Nat.zero_le _
  have := each 0; have := each 1; have := each 2; have := each 3
  unfold State.reserved
  omega

theorem storeResetBlocks (h : CreditLaw s) : CreditLaw s.storeResetBlocks := by
  have lane : ∀ n, s.storeResetBlocks.lane n = (s.lane n).storeReset := fun n => mapVec_get Lane.storeReset s.lanes n
  have same : ∀ n, (s.lane n).SameWindow (s.storeResetBlocks.lane n) := fun n => lane n ▸ Lane.sw_storeReset _
  have reserved : s.storeResetBlocks.reserved = s.reserved := by
    unfold State.reserved
    rw [(same 0).reservation, (same 1).reservation, (same 2).reservation, (same 3).reservation]
  have few := h.reserved_le
  refine ⟨fun n => (same n).creditLaw (h.1 n), ?_, ?_⟩
  · rw [reserved]; change s.reserved ≤ 1024; omega
  · rw [reserved]; change 4 * s.reserved ≤ 2048; omega

theorem storeReset (h : CreditLaw s) : CreditLaw s.storeReset := by
  have checked : ∀ lanes : List LaneId, ∀ u, CreditLaw u → CreditLaw (lanes.foldl (fun s n => s.checkWindow n) u) := by
    intro lanes
    induction lanes with
    | nil => exact fun _ h => h
    | cons n rest ih => exact fun u h => ih _ (h.checkWindow n)
  exact (checked _ _ h.storeResetBlocks).grantMany _

theorem clearGroup (h : CreditLaw s) (g : CounterGroup) : CreditLaw (s.clearGroup g) := by
  cases g with
  | lane n => exact h.mapSame n _ (Lane.sw_count _)
  | queue | rules | link => exact h.of_eq rfl le_rfl le_rfl

theorem endWalk (h : CreditLaw s) (w : Walk) : CreditLaw (s.endWalk w) := by
  have handed : CreditLaw ((s.decided w).handOn (s.classifier.active.judge w.record).2 w.record) :=
    State.handOn_keeps (fun _ c h => h.setClassifier c) (fun _ _ side h => side.creditLaw h) _ _ (h.setClassifier _)
  exact (handed.sameRecords (.takeCommit _)).setClassifier _

theorem powerOn (pending lines running rate) : CreditLaw (.powerOn pending lines running rate) := by
  have reservation : ∀ n, ((State.powerOn pending lines running rate).lane n).reservation = 0 := fun n => by
    rw [State.lane_powerOn]; rfl
  refine ⟨fun n => by rw [State.lane_powerOn]; decide, ?_, ?_⟩ <;>
    · simp only [State.reserved, reservation]
      exact Nat.zero_le _

theorem effect (h : CreditLaw s) (e : Effect s t) : CreditLaw t := by
  refine e.keeps_records (fun _ => id) (fun _ _ => sameRecords) (fun _ _ => sameRecords) powerOn (fun _ _ => laneEffect) ?queue
    (fun _ w _ h => h.setWatermark w) (fun _ => storeReset) (fun _ g h => h.clearGroup g) (fun w _ h => h.endWalk w) h
  exact fun s t h e => e.side.creditLaw h

/-- A lane whose characters change and whose assembly fills keeps its window. -/
theorem takes (taken : Takes s t) (h : CreditLaw s) : CreditLaw t := by
  obtain ⟨k, line⟩ | ⟨n, k, line⟩ := taken
  · exact h.of_eq rfl le_rfl le_rfl
  · have moved : CreditLaw (s.mapLane n fun l => ({ l with reception := k } : Lane).storePayload) :=
      h.mapSame n _ fun l => ⟨rfl, rfl, rfl, rfl⟩
    exact moved.of_eq rfl le_rfl le_rfl

theorem step (h : CreditLaw s) (taken : Machine.step s = .next t) : CreditLaw t :=
  step_keeps_records (fun _ => id) (fun _ _ => sameRecords) (fun _ _ => sameRecords) powerOn (fun _ _ => takes)
    (fun _ _ e h => h.effect e) taken h

end CreditLaw

/-- Settles O50, effect by effect. -/
theorem stepKeepsCreditLaw : Obligations.StepKeepsCreditLaw := fun _ _ law h => law.step h

end Sys2Proof.Machine
end

section
/-! The memory law (R1, R2, R13, R15, R17): the free counts and the records held account for the whole store after every change
that a step is made of. -/
namespace Sys2Proof.Machine

/-! ## The store-low state (R17, R18) -/

/-- The store-low state agrees with F (R17). -/
structure Store.LowLaw (st : Store) : Prop where
  watermark : st.watermark ≤ 1023
  armed : st.armed = true → st.watermark ≤ st.freeDescriptors
  disarmed : st.armed = false → st.freeDescriptors < min (st.watermark + 32) 1024

namespace Store.LowLaw

variable {st : Store}

theorem free (h : st.LowLaw) (r : Record) : (st.free r).LowLaw := by
  obtain ⟨watermark, armed, disarmed⟩ := h
  refine ⟨watermark, fun on => ?_, fun off => ?_⟩
  · rw [Store.free_eq] at on ⊢
    obtain before | reached := Bool.or_eq_true_iff.1 on
    · exact (armed before).trans (Nat.le_succ _)
    · have := of_decide_eq_true reached
      dsimp only
      omega
  · rw [Store.free_eq] at off ⊢
    have := of_decide_eq_false ((Bool.or_eq_false_iff).1 off).2
    dsimp only
    omega

theorem freed (h : st.LowLaw) (r : Option Record) : (st.freed r).LowLaw := by
  cases r with
  | none => exact h
  | some r => exact h.free r

end Store.LowLaw

/-- After the test of the store-low state it agrees with F, whatever F has become, unless it was DISARMED above the rearm
level. -/
theorem State.storeLowTest_lowLaw {s : State} (watermark : s.store.watermark ≤ 1023)
    (disarmed : s.store.armed = false → s.store.freeDescriptors < min (s.store.watermark + 32) 1024) :
    s.storeLowTest.store.LowLaw := by
  rw [State.storeLowTest_eq]
  split
  · rename_i low
    exact ⟨watermark, fun on => by simp at on, fun _ => by dsimp only; omega⟩
  · rename_i high
    refine ⟨watermark, fun on => ?_, disarmed⟩
    simp only [on, true_and, not_and, not_lt] at high
    by_cases zero : s.store.watermark = 0
    · omega
    · exact high zero

theorem State.setWatermark_lowLaw (s : State) {w : Nat} (range : w ≤ 1023) : (s.setWatermark w).store.LowLaw := by
  unfold State.setWatermark
  dsimp only
  split
  · rename_i on
    exact State.storeLowTest_lowLaw range fun off => by simp only [on] at off; cases off
  · rename_i off
    refine ⟨range, fun on => ?_, fun off => ?_⟩
    · obtain before | reached := Bool.or_eq_true_iff.1 on
      · exact absurd before off
      · have := of_decide_eq_true reached
        unfold rearmLevel at this
        dsimp only
        omega
    · have := of_decide_eq_false ((Bool.or_eq_false_iff).1 off).2
      unfold rearmLevel at this
      dsimp only
      omega

/-! ## The account of a store count (R1, R2) -/

/-- A free count of the store, and what a record of a payload length takes of it: descriptors, one each, or blocks. -/
structure Resource where
  free : Store → Nat
  cost : Nat → Nat
  freed : ∀ (r : Record) (st : Store), free (st.free r) = free st + cost r.payloadLength

def Resource.descriptors : Resource := ⟨Store.freeDescriptors, fun _ => 1, fun _ _ => rfl⟩

def Resource.blocks : Resource := ⟨Store.freeBlocks, blocksFor, fun _ _ => rfl⟩

/-- What a record takes of the resource. -/
def Resource.weightOf (x : Resource) (r : Record) : Nat := x.cost r.payloadLength

/-- What is free and what the records held take. -/
def State.account (x : Resource) (s : State) : Nat := x.free s.store + s.weight x.weightOf

/-- The same inside a step, the records in hand included. -/
def Handling.account (x : Resource) (a : Handling) : Nat := a.state.account x + weigh x.weightOf (a.hand.map Prod.fst)

theorem Handling.account_nil (x : Resource) (s : State) (k : Nat) : Handling.account x ⟨s, [], k⟩ = s.account x := rfl

/-- The weight of all records depends on their places alone. -/
theorem State.weight_congr (f : Record → Nat) {s t : State} (lanes : t.lanes = s.lanes)
    (intake : t.classifier.intake = s.classifier.intake) (walk : t.classifier.walk = s.classifier.walk)
    (queues : ∀ q, (t.queue q).list = (s.queue q).list) (slots : t.slots = s.slots) : t.weight f = s.weight f := by
  have lane : ∀ n, t.lane n = s.lane n := fun n => by unfold State.lane; rw [lanes]
  have slot : ∀ i, t.slot i = s.slot i := fun i => by unfold State.slot; rw [slots]
  simp only [State.weight_eq, lane, intake, walk, queues, slot]

/-- What the records weigh when one queue's list has changed. -/
theorem State.weight_of_list (f : Record → Nat) {s t : State} (q : QueueId) (lanes : t.lanes = s.lanes)
    (intake : t.classifier.intake = s.classifier.intake) (walk : t.classifier.walk = s.classifier.walk)
    (queues : ∀ p, q ≠ p → (t.queue p).list = (s.queue p).list) (slots : t.slots = s.slots) :
    t.weight f + weigh f (s.queue q).list = s.weight f + weigh f (t.queue q).list := by
  have written := s.weight_setQueue f q (t.queue q)
  rwa [← State.weight_congr f (s := s.setQueue q (t.queue q)) (t := t) lanes intake walk ?_ slots] at written
  intro p
  rw [State.queue_setQueue]
  split
  · rename_i same; rw [same]
  · exact queues p ‹_›

theorem weigh_insertByAge (f : Record → Nat) (age : Record → Nat) (r : Record) (list : List Record) :
    weigh f (insertByAge age r list) = f r + weigh f list := by
  rw [insertByAge_eq, weigh_append, weigh_cons]
  conv_rhs => rw [← olderPart_append_youngerPart age r list, weigh_append]
  omega

/-- A write that keeps every list leaves the account as it is. -/
theorem State.account_of_lists (x : Resource) {s t : State} (store : t.store = s.store) (lanes : t.lanes = s.lanes)
    (intake : t.classifier.intake = s.classifier.intake) (walk : t.classifier.walk = s.classifier.walk)
    (queues : ∀ q, (t.queue q).list = (s.queue q).list) (slots : t.slots = s.slots) : t.account x = s.account x := by
  unfold State.account
  rw [store, State.weight_congr _ lanes intake walk queues slots]

section
variable {s : State} {q : QueueId} (x : Resource)

theorem account_enqueue (spill : Bool) (r : Record) :
    (s.enqueue q spill r).account x = s.account x + x.weightOf r := by
  have moved := State.weight_of_list x.weightOf (s := s) (t := s.enqueue q spill r) q rfl rfl rfl
    (fun p other => by rw [State.queue_enqueue, if_neg other]) rfl
  rw [State.queue_enqueue, if_pos rfl] at moved
  simp only [weigh_append, weigh_cons, weigh_nil] at moved
  have same : x.weightOf ((s.queue q).admitted q r) = x.weightOf r := rfl
  have store : (s.enqueue q spill r).store = s.store := rfl
  unfold State.account
  rw [store]
  omega

theorem account_evictHead {head : Record} {rest : List Record} (list : (s.queue q).list = head :: rest) :
    (s.evictHead q head rest).account x = s.account x := by
  have moved := State.weight_of_list x.weightOf (s := s) (t := s.evictHead q head rest) q rfl rfl rfl
    (fun p other => by rw [State.queue_evictHead, if_neg other]) rfl
  rw [State.queue_evictHead, if_pos rfl, list] at moved
  simp only [weigh_cons] at moved
  have store : x.free (s.evictHead q head rest).store = x.free s.store + x.weightOf head := x.freed head s.store
  unfold State.account
  omega

theorem account_setList (list : List Record) :
    (s.setList q list).account x + weigh x.weightOf (s.queue q).list = s.account x + weigh x.weightOf list := by
  have moved := State.weight_of_list x.weightOf (s := s) (t := s.setList q list) q rfl rfl rfl
    (fun p other => by rw [State.queue_setList, if_neg other]) rfl
  rw [State.queue_setList, if_pos rfl] at moved
  have store : (s.setList q list).store = s.store := rfl
  unfold State.account
  rw [store]
  dsimp only at moved
  omega

theorem account_setSlot (i : SlotId) (y : Slot) :
    (s.setSlot i y).account x + weigh x.weightOf ((s.slot i).occupant.map Occupant.record).toList =
      s.account x + weigh x.weightOf (y.occupant.map Occupant.record).toList := by
  have moved := s.weight_setSlot x.weightOf i y
  have store : (s.setSlot i y).store = s.store := rfl
  unfold State.account
  rw [store]
  omega

theorem account_freeRecord (r : Record) : (s.freeRecord r).account x = s.account x + x.weightOf r := by
  have store : x.free (s.freeRecord r).store = x.free s.store + x.weightOf r := x.freed r s.store
  have weight : (s.freeRecord r).weight x.weightOf = s.weight x.weightOf := State.weight_congr _ rfl rfl rfl (fun _ => rfl) rfl
  unfold State.account
  omega

end

theorem State.list_chargeDown (s : State) (q p : QueueId) : ((s.chargeDown q).queue p).list = (s.queue p).list := by
  rw [State.queue_chargeDown]
  split
  · rename_i same; rw [same]
  · rfl

theorem State.list_countQueue (s : State) (q p : QueueId) (f : QueueCounters → QueueCounters) :
    ((s.countQueue q f).queue p).list = (s.queue p).list := by
  rw [State.queue_countQueue]
  split
  · rename_i same; rw [same]
  · rfl

theorem State.list_setConfig (s : State) (q p : QueueId) (c : QueueConfig) :
    ((s.setQueue q { s.queue q with config := c }).queue p).list = (s.queue p).list := by
  rw [State.queue_setQueue]
  split
  · rename_i same; rw [same]
  · rfl

/-- No change of the queues changes an account. -/
theorem QueueFlow.account (x : Resource) {a b : Handling} (h : QueueFlow a b) : b.account x = a.account x := by
  unfold Handling.account
  cases h with
  | skip | raise | countClassifier => rfl
  | spill => rfl
  | pull s H k q pulled rest list =>
    have moved := account_setList (s := s) (q := q) x rest
    rw [list, weigh_append] at moved
    have hand : (pulled.map (·, some q)).map Prod.fst = pulled := by rw [List.map_map]; exact List.map_id _
    simp only [List.map_append, hand, weigh_append]
    omega
  | unslot s H k i o occupied =>
    have moved := account_setSlot (s := s) x i ⟨(s.slot i).issue + 1, none⟩
    rw [occupied] at moved
    simp only [Option.map_some, Option.toList_some, Option.map_none, Option.toList_none, weigh_cons, weigh_nil,
      List.map_cons, State.emptySlot] at moved ⊢
    omega
  | uncharge s H k r q =>
    dsimp only
    rw [State.account_of_lists x (s := s) (t := s.chargeDown q) rfl rfl rfl rfl (s.list_chargeDown q) rfl]
    rfl
  | free s H k r =>
    dsimp only
    rw [account_freeRecord, List.map_cons, weigh_cons]
    exact Nat.add_assoc _ _ _
  | admission s H k r q spill =>
    dsimp only
    rw [account_enqueue, List.map_cons, weigh_cons]
    exact Nat.add_assoc _ _ _
  | evict s H k r q spill head rest enabled list =>
    dsimp only
    rw [account_enqueue, account_evictHead x list, List.map_cons, weigh_cons]
    exact Nat.add_assoc _ _ _
  | requeue s H k r q =>
    have moved := account_setList (s := s) (q := q) x (insertByAge (s.queue q).age r (s.queue q).list)
    rw [weigh_insertByAge] at moved
    simp only [List.map_cons, weigh_cons]
    omega
  | claim s H k r q i c empty =>
    have moved := account_setSlot (s := s) x i ⟨(s.slot i).issue,
      some ⟨{ r with deliveryCount := satAdd 255 r.deliveryCount 1 }, q, leaseDeadline c s.clock⟩⟩
    rw [empty] at moved
    have same : x.weightOf { r with deliveryCount := satAdd 255 r.deliveryCount 1 } = x.weightOf r := rfl
    simp only [Option.map_some, Option.toList_some, Option.map_none, Option.toList_none, weigh_cons, weigh_nil,
      List.map_cons] at moved ⊢
    omega
  | extend s H k i o c occupied =>
    have moved := account_setSlot (s := s) x i { s.slot i with occupant := some { o with deadline := leaseDeadline c s.clock } }
    rw [occupied] at moved
    simp only [Option.map_some, Option.toList_some, weigh_cons, weigh_nil] at moved ⊢
    omega
  | config s H k q c =>
    dsimp only
    rw [State.account_of_lists x (s := s) (t := (s.setQueue q { s.queue q with config := c }).evalDue q) rfl rfl rfl rfl
      (fun p => s.list_setConfig q p c) rfl]
  | count s H k q f =>
    dsimp only
    rw [State.account_of_lists x (s := s) (t := s.countQueue q f) rfl rfl rfl rfl (fun p => s.list_countQueue q p f) rfl]

end Sys2Proof.Machine
end

section
/-! The memory law after every step (R1, R2, R13, R15, R17). -/
namespace Sys2Proof.Machine

/-- The memory law inside a step: the records in hand take their part of the store. -/
structure Handling.MemoryLaw (a : Handling) : Prop where
  descriptors : a.account .descriptors = 1024
  blocks : a.account .blocks = 2048
  hunting : ∀ n, (a.state.lane n).receiver = .hunting → (a.state.lane n).assembly = none
  low : a.state.store.LowLaw

theorem memoryLaw_iff (s : State) (k : Nat) : MemoryLaw s ↔ Handling.MemoryLaw ⟨s, [], k⟩ := by
  have count : (heldRecords s).length = s.weight Resource.descriptors.weightOf := length_eq_weigh _
  have sum : ((heldRecords s).map Record.blocks).sum = s.weight Resource.blocks.weightOf := rfl
  unfold MemoryLaw
  rw [count, sum]
  constructor
  · rintro ⟨descriptors, blocks, hunting, watermark, armed, disarmed⟩
    exact ⟨descriptors, blocks, hunting, watermark, armed, disarmed⟩
  · rintro ⟨descriptors, blocks, hunting, watermark, armed, disarmed⟩
    exact ⟨descriptors, blocks, hunting, watermark, armed, disarmed⟩

theorem State.enqueue_lanes (s : State) (q : QueueId) (spill : Bool) (r : Record) : (s.enqueue q spill r).lanes = s.lanes := rfl

theorem State.evictHead_lanes (s : State) (q : QueueId) (head : Record) (rest : List Record) :
    (s.evictHead q head rest).lanes = s.lanes := rfl

/-- The changes of the queues leave the lanes alone. -/
theorem QueueFlow.lanes {a b : Handling} (h : QueueFlow a b) : b.state.lanes = a.state.lanes := by
  cases h with
  | evict s H k r q spill head rest => exact (State.enqueue_lanes _ q spill r).trans (State.evictHead_lanes s q head rest)
  | skip | spill | countClassifier | raise | free | pull | unslot | uncharge | admission | requeue | claim | extend | config
  | count => rfl

theorem QueueFlow.lane {a b : Handling} (h : QueueFlow a b) (n : LaneId) : b.state.lane n = a.state.lane n := by
  unfold State.lane
  rw [h.lanes]

/-- The changes of the queues reach the Record Store by frees alone. -/
theorem QueueFlow.store {a b : Handling} (h : QueueFlow a b) :
    b.state.store = a.state.store ∨ ∃ r, b.state.store = a.state.store.free r := by
  cases h with
  | free s H k r => exact .inr ⟨r, rfl⟩
  | evict s H k r q spill head rest => exact .inr ⟨head, rfl⟩
  | skip | spill | countClassifier | raise | pull | unslot | uncharge | admission | requeue | claim | extend | config
  | count => exact .inl rfl

/-- The memory law is kept by every change of the queues. -/
theorem QueueFlow.keeps_MemoryLaw {a b : Handling} (h : QueueFlow a b) (law : a.MemoryLaw) : b.MemoryLaw := by
  refine ⟨(h.account _).trans law.descriptors, (h.account _).trans law.blocks,
    fun n => by rw [h.lane]; exact law.hunting n, ?_⟩
  obtain same | ⟨r, freed⟩ := h.store
  · rw [same]; exact law.low
  · rw [freed]; exact law.low.free r

/-! ## The lanes -/

theorem Lane.enterProbing_assembly (l : Lane) (now : Nat) :
    (l.enterProbing now).assembly = l.assembly ∧ (l.enterProbing now).receiver = l.receiver := by
  unfold Lane.enterProbing Lane.dueProbe Lane.makeDue
  split
  · exact ⟨rfl, rfl⟩
  · split <;> exact ⟨rfl, rfl⟩

theorem Lane.makeDue_assembly (l : Lane) (f : LaneFrame) :
    (l.makeDue f).assembly = l.assembly ∧ (l.makeDue f).receiver = l.receiver := by
  unfold Lane.makeDue
  split <;> exact ⟨rfl, rfl⟩

theorem Lane.dueProbe_assembly (l : Lane) (k : Fin 4) :
    (l.dueProbe k).assembly = l.assembly ∧ (l.dueProbe k).receiver = l.receiver := by
  unfold Lane.dueProbe
  split
  · exact ⟨rfl, rfl⟩
  · exact l.makeDue_assembly _

theorem Lane.dueCredit_assembly (l : Lane) (now : Nat) :
    (l.dueCredit now).assembly = l.assembly ∧ (l.dueCredit now).receiver = l.receiver := by
  unfold Lane.dueCredit
  dsimp only
  split
  · exact ⟨rfl, rfl⟩
  · exact Lane.makeDue_assembly _ _

theorem Lane.goodFrame_assembly (l : Lane) (now : Nat) :
    (l.goodFrame now).assembly = l.assembly ∧ (l.goodFrame now).receiver = l.receiver := by
  rw [Lane.goodFrame_eq]
  exact ⟨rfl, rfl⟩

theorem Lane.frameSent_assembly (l : Lane) (now : Nat) :
    (l.frameSent now).assembly = l.assembly ∧ (l.frameSent now).receiver = l.receiver := by
  unfold Lane.frameSent
  split
  · exact ⟨rfl, rfl⟩
  · dsimp only
    split <;> exact ⟨rfl, rfl⟩

/-- What a step of a lane does to its assembly: the payload received is written into it, and nothing else. -/
theorem Lane.Step.assembly {now : Nat} {l l' : Lane} (h : Lane.Step now l l') :
    l'.assembly = l.assembly ∨ ∃ k, l' = ({ l with reception := k } : Lane).storePayload := by
  cases h with
  | enterProbing => exact .inl (l.enterProbing_assembly now).1
  | good => exact .inl (l.goodFrame_assembly now).1
  | probeOn k => exact .inl (Lane.dueProbe_assembly _ k).1
  | restartProbe => exact .inl (Lane.dueProbe_assembly _ 0).1
  | makeDue f => exact .inl (l.makeDue_assembly f).1
  | dueCredit => exact .inl (l.dueCredit_assembly now).1
  | enterClosing => exact .inl (Lane.makeDue_assembly _ _).1
  | frameSent => exact .inl (l.frameSent_assembly now).1
  | gather k => exact .inr ⟨k, rfl⟩
  | bad | count | activate | advance | credit | receive | hunt | config | fail | stopWaiting => exact .inl rfl

/-- A lane that hunts after a step, and did not before, assembles nothing. -/
theorem Lane.Step.hunting {now : Nat} {l l' : Lane} (h : Lane.Step now l l') (before : l.receiver = .hunting → l.assembly = none)
    (hunts : l'.receiver = .hunting) : l'.assembly = none := by
  have kept : ∀ {m : Lane}, m.assembly = l.assembly ∧ m.receiver = l.receiver → m.receiver = .hunting → m.assembly = none :=
    fun same hunts => same.1.trans (before (same.2 ▸ hunts))
  have idle : l.Idle → l.assembly = none := Or.rec before id
  cases h with
  | enterProbing => exact kept (l.enterProbing_assembly now) hunts
  | good => exact kept (l.goodFrame_assembly now) hunts
  | probeOn k => exact kept (Lane.dueProbe_assembly _ k) hunts
  | restartProbe => exact kept (Lane.dueProbe_assembly _ 0) hunts
  | makeDue f => exact kept (l.makeDue_assembly f) hunts
  | dueCredit => exact kept (l.dueCredit_assembly now) hunts
  | enterClosing => exact kept (Lane.makeDue_assembly _ _) hunts
  | frameSent => exact kept (l.frameSent_assembly now) hunts
  | gather k =>
    have none : l.assembly = none := before hunts
    rw [Lane.storePayload_assembly]
    exact congrArg (Option.map _) none
  | bad lane => exact idle lane
  | hunt empty => exact empty
  | receive => cases hunts
  | count | activate | advance | credit | config | fail | stopWaiting => exact before hunts

theorem Lane.fillPayload_payloadLength (l : Lane) (r : Record) : (l.fillPayload r).payloadLength = r.payloadLength := by
  obtain ⟨payload, filled⟩ := l.fillPayload_eq r
  rw [filled]

/-- A step of a lane changes no account. -/
theorem Lane.Step.account (x : Resource) {s : State} {n : LaneId} {l : Lane} (h : Lane.Step s.clock (s.lane n) l) :
    (s.setLane n l).account x = s.account x := by
  have moved := s.weight_setLane x.weightOf n l
  have store : (s.setLane n l).store = s.store := rfl
  have same : weigh x.weightOf l.assembly.toList = weigh x.weightOf (s.lane n).assembly.toList := by
    obtain same | ⟨k, rfl⟩ := h.assembly
    · rw [same]
    · rw [Lane.storePayload_assembly]
      cases assembly : (s.lane n).assembly with
      | none => rfl
      | some r =>
        simp only [Option.map_some, Option.toList_some, weigh_cons, weigh_nil, Resource.weightOf,
          Lane.fillPayload_payloadLength]
  unfold State.account
  rw [store]
  omega

theorem Classifier.join_weight (f : Record → Nat) (c : Classifier) (now : Nat) (r : Record) :
    weigh f (c.join now r).intake + weigh f ((c.join now r).walk.map Walk.record).toList =
      weigh f c.intake + weigh f (c.walk.map Walk.record).toList + f r := by
  rw [Classifier.join_eq]
  cases walk : c.walk with
  | some w =>
    simp only [weigh_append, weigh_cons, weigh_nil]
    omega
  | none =>
    cases intake : c.intake with
    | nil =>
      simp only [Option.map_some, Option.map_none, Option.toList_some, Option.toList_none, weigh_cons, weigh_nil]
      omega
    | cons y rest =>
      simp only [Option.map_some, Option.map_none, Option.toList_some, Option.toList_none, weigh_append, weigh_cons, weigh_nil]
      omega

/-- The memory law is kept by every change of the lanes. -/
theorem LaneFlow.keeps_MemoryLaw {s t : State} (h : LaneFlow s t) (law : MemoryLaw s) : MemoryLaw t := by
  obtain ⟨descriptors, blocks, hunting, low⟩ := (memoryLaw_iff s 0).1 law
  simp only [Handling.account_nil] at descriptors blocks
  refine (memoryLaw_iff t 0).2 ?_
  cases h with
  | step n l h =>
    refine ⟨(h.account _).trans descriptors, (h.account _).trans blocks, fun m => ?_, low⟩
    dsimp only
    rw [State.lane_setLane]
    split
    · rename_i same
      subst same
      exact h.hunting (hunting n)
    · exact hunting m
  | drop n l h =>
    have empty : l.assembly = none := by cases h <;> rfl
    have account : ∀ x : Resource,
        ({ s with lanes := s.lanes.set n l, store := s.store.freed (s.lane n).assembly } : State).account x = s.account x := by
      intro x
      have moved := s.weight_setLane x.weightOf n l
      rw [empty] at moved
      have weight : ({ s with lanes := s.lanes.set n l, store := s.store.freed (s.lane n).assembly } : State).weight
          x.weightOf = (s.setLane n l).weight x.weightOf := rfl
      unfold State.account
      rw [weight]
      cases assembly : (s.lane n).assembly with
      | none => rw [assembly] at moved; exact congrArg _ moved
      | some r =>
        rw [assembly] at moved
        have free : x.free (s.store.freed (some r)) = x.free s.store + x.weightOf r := x.freed r s.store
        simp only [Option.toList_some, Option.toList_none, weigh_cons, weigh_nil] at moved
        dsimp only
        omega
    refine ⟨(account _).trans descriptors, (account _).trans blocks, fun m => ?_, low.freed _⟩
    dsimp only
    have written : ({ s with lanes := s.lanes.set n l, store := s.store.freed (s.lane n).assembly } : State).lane m =
      if n = m then l else s.lane m := State.lane_setLane s n m l
    rw [written]
    split
    · exact fun _ => empty
    · exact hunting m
  | recorded n covered rest crc inSession r receiver bytes assembly =>
    have empty : ((s.lane n).recorded s.clock).assembly = none := (Lane.goodFrame_assembly _ _).1
    have account : ∀ x : Resource, ({ s.setLane n ((s.lane n).recorded s.clock) with
        classifier := s.classifier.join s.clock { r with arrival := some s.timebase } } : State).account x = s.account x := by
      intro x
      have moved := s.weight_setLane x.weightOf n ((s.lane n).recorded s.clock)
      rw [empty, assembly] at moved
      have joined := Classifier.join_weight x.weightOf s.classifier s.clock { r with arrival := some s.timebase }
      have same : x.weightOf { r with arrival := some s.timebase } = x.weightOf r := rfl
      rw [State.weight_eq, State.weight_eq] at moved
      unfold State.account
      rw [State.weight_eq, State.weight_eq]
      simp only [Option.toList_some, Option.toList_none, weigh_cons, weigh_nil, State.lane, State.queue, State.slot,
        State.setLane] at moved ⊢
      omega
    refine ⟨(account _).trans descriptors, (account _).trans blocks, fun m => ?_, low⟩
    dsimp only
    have written : ({ s.setLane n ((s.lane n).recorded s.clock) with
      classifier := s.classifier.join s.clock { r with arrival := some s.timebase } } : State).lane m =
      if n = m then (s.lane n).recorded s.clock else s.lane m := State.lane_setLane s n m _
    rw [written]
    split
    · exact fun _ => empty
    · exact hunting m
  | raise kind subject => exact ⟨descriptors, blocks, hunting, low⟩
  | pointer n => exact ⟨descriptors, blocks, hunting, low.watermark, low.armed, low.disarmed⟩

end Sys2Proof.Machine
end

section
/-! An accepted header (R13, R54, R55) and the memory law after every step. -/
namespace Sys2Proof.Machine

/-- What the record of an accepted header takes of the store is there, by the reservation of its lane (R9). -/
theorem Accepts.room {s t : State} {n : LaneId} {covered : List Byte} {h : RecordHeader} {d : Nat} (a : Accepts s n covered h d t)
    (credit : CreditLaw s) : 1 ≤ s.store.freeDescriptors ∧ blocksFor h.payloadLength.toNat ≤ s.store.freeBlocks := by
  have window := (windowCase_accepts a.window).2
  have part : (s.lane n).reservation ≤ s.reserved := by
    have lanes : ∀ m : LaneId, m = 0 ∨ m = 1 ∨ m = 2 ∨ m = 3 := by decide
    unfold State.reserved
    obtain rfl | rfl | rfl | rfl := lanes n <;> omega
  have blocks := blocksFor_le a.payload
  obtain ⟨-, descriptors, room⟩ := credit
  omega

/-- The lane that has accepted a header: the receiver is inside the frame, and the record is its assembly. -/
def Lane.accepted (covered : List Byte) (h : RecordHeader) (d : Nat) (r : Record) (now : Nat) (l : Lane) : Lane :=
  ({ ({ l.gathered covered now with receiver := .record covered h.payloadLength.toNat true } : Lane) with
     e := h.seq + 1
     pendingMissing := 0
     assembly := some r
     counters := { l.counters with missingTotal := bumpBy d l.counters.missingTotal } } : Lane).testCreditAfterE now

theorem Lane.gathered_fields (l : Lane) (bytes : List Byte) (now : Nat) :
    l.gathered bytes now = { l with reception := (l.gathered bytes now).reception } := by
  unfold Lane.gathered
  split <;> rfl

/-- The record of an accepted header. -/
def Accepts.record (s : State) (n : LaneId) (h : RecordHeader) (d : Nat) : Record :=
  acceptedRecord n h (addMissing (s.lane n).pendingMissing d)

/-- An accepted header as one write of the lane and an allocation. -/
theorem Accepts.eq {s t : State} {n : LaneId} {covered : List Byte} {h : RecordHeader} {d : Nat} (a : Accepts s n covered h d t) :
    t = (s.setLane n ((s.lane n).accepted covered h d (record s n h d) s.clock)).allocate (record s n h d) := by
  have bytes : s.recordBytes n covered = s.setLane n ((s.lane n).gathered covered s.clock) := by
    have idle : ((s.lane n).gathered covered s.clock).receiver = .hunting := by rw [Lane.gathered_receiver, a.hunting]
    rw [State.recordBytes_eq, ← Lane.storePayload_eq, Lane.storePayload_of_hunting idle]
    rfl
  have fields := (s.lane n).gathered_fields covered s.clock
  rw [a.next, bytes]
  unfold State.receiveRecord State.acceptHeader
  simp only [State.mapLane_setLane, State.lane_setLane, if_true]
  unfold Lane.accepted record
  rw [fields]
  rfl

theorem Lane.testCreditAfterE_assembly (l : Lane) (now : Nat) :
    (l.testCreditAfterE now).assembly = l.assembly ∧ (l.testCreditAfterE now).receiver = l.receiver := by
  unfold Lane.testCreditAfterE
  split
  · exact l.dueCredit_assembly now
  · exact ⟨rfl, rfl⟩

theorem Lane.accepted_assembly (covered : List Byte) (h : RecordHeader) (d : Nat) (r : Record) (now : Nat) (l : Lane) :
    (l.accepted covered h d r now).assembly = some r ∧
      (l.accepted covered h d r now).receiver = .record covered h.payloadLength.toNat true :=
  Lane.testCreditAfterE_assembly _ now

/-- An allocation touches the Record Store and the Notice Unit alone. -/
theorem State.allocate_lanes (r : Record) (s : State) :
    (s.allocate r).lanes = s.lanes ∧ (s.allocate r).classifier = s.classifier ∧ (s.allocate r).queues = s.queues ∧
      (s.allocate r).slots = s.slots := by
  unfold State.allocate State.storeLowTest
  split <;> exact ⟨rfl, rfl, rfl, rfl⟩

theorem State.allocate_account (x : Resource) (r : Record) (s : State) :
    (s.allocate r).weight x.weightOf = s.weight x.weightOf := by
  obtain ⟨lanes, classifier, queues, slots⟩ := s.allocate_lanes r
  refine State.weight_congr _ lanes (by rw [classifier]) (by rw [classifier]) (fun q => ?_) slots
  unfold State.queue
  rw [queues]

theorem Accepts.keeps_MemoryLaw {s t : State} {n : LaneId} {covered : List Byte} {h : RecordHeader} {d : Nat}
    (a : Accepts s n covered h d t) (credit : CreditLaw s) (law : MemoryLaw s) : MemoryLaw t := by
  obtain ⟨room, roomBlocks⟩ := a.room credit
  obtain ⟨descriptors, blocks, hunting, low⟩ := (memoryLaw_iff s 0).1 law
  simp only [Handling.account_nil] at descriptors blocks
  refine (memoryLaw_iff t 0).2 ?_
  rw [a.eq]
  set r := record s n h d
  set l := (s.lane n).accepted covered h d r s.clock
  obtain ⟨assembled, inside⟩ := Lane.accepted_assembly covered h d r s.clock (s.lane n)
  have weight : ∀ x : Resource, ((s.setLane n l).allocate r).weight x.weightOf = s.weight x.weightOf + x.weightOf r := by
    intro x
    have moved := s.weight_setLane x.weightOf n l
    rw [assembled, hunting n a.hunting] at moved
    rw [State.allocate_account]
    simpa using moved
  have store : ((s.setLane n l).allocate r).store.freeDescriptors = s.store.freeDescriptors - 1 ∧
      ((s.setLane n l).allocate r).store.freeBlocks = s.store.freeBlocks - r.blocks := State.storeLowTest_store _
  have size : r.blocks = blocksFor h.payloadLength.toNat := rfl
  have cost : Resource.blocks.weightOf r = r.blocks := rfl
  have one : Resource.descriptors.weightOf r = 1 := rfl
  refine ⟨?_, ?_, fun m => ?_, ?_⟩
  · rw [Handling.account_nil]
    unfold State.account at descriptors ⊢
    rw [weight, one]
    change ((s.setLane n l).allocate r).store.freeDescriptors + _ = 1024
    change s.store.freeDescriptors + _ = 1024 at descriptors
    omega
  · rw [Handling.account_nil]
    unfold State.account at blocks ⊢
    rw [weight, cost]
    change ((s.setLane n l).allocate r).store.freeBlocks + _ = 2048
    change s.store.freeBlocks + _ = 2048 at blocks
    omega
  · dsimp only
    unfold State.lane
    rw [((s.setLane n l).allocate_lanes r).1]
    change ((s.setLane n l).lane m).receiver = .hunting → ((s.setLane n l).lane m).assembly = none
    rw [State.lane_setLane]
    split
    · exact fun hunts => by rw [inside] at hunts; cases hunts
    · exact hunting m
  · refine State.storeLowTest_lowLaw low.watermark fun off => ?_
    exact lt_of_le_of_lt (Nat.sub_le _ _) (low.disarmed off)

theorem LaneEffect.brings_MemoryLaw {s t : State} (h : LaneEffect s t) (credit : CreditLaw s) (law : MemoryLaw s) : MemoryLaw t := by
  obtain chain | ⟨n, covered, x, d, accepts⟩ := h.chain
  · exact chain.keeps (fun _ _ => LaneFlow.keeps_MemoryLaw) law
  · exact accepts.keeps_MemoryLaw credit law

/-! ## Every step -/

namespace MemoryLaw

variable {s t : State}

/-- The records and the store are as they were. -/
theorem sameRecords (same : SameRecords s t) (h : MemoryLaw s) : MemoryLaw t := by
  unfold MemoryLaw at h ⊢
  simpa only [same.store, same.heldRecords, same.lane] using h

theorem powerOn (pending lines running rate) : MemoryLaw (.powerOn pending lines running rate) := by
  have none : heldRecords (State.powerOn pending lines running rate) = [] := by
    simp only [heldRecords, State.lane_powerOn, State.queue_powerOn, State.slot_powerOn]
    rfl
  have store : (State.powerOn pending lines running rate).store = .powerOn := rfl
  unfold MemoryLaw
  simp only [none, State.lane_powerOn, store]
  decide

theorem setWatermark {w : Nat} (range : w ≤ 1023) (h : MemoryLaw s) : MemoryLaw (s.setWatermark w) := by
  have free : (s.setWatermark w).store.freeDescriptors = s.store.freeDescriptors ∧
      (s.setWatermark w).store.freeBlocks = s.store.freeBlocks := by
    unfold State.setWatermark
    dsimp only
    split
    · exact State.storeLowTest_store _
    · exact ⟨rfl, rfl⟩
  have places : (s.setWatermark w).lanes = s.lanes ∧ (s.setWatermark w).classifier = s.classifier := by
    unfold State.setWatermark State.storeLowTest
    dsimp only
    split
    · split <;> exact ⟨rfl, rfl⟩
    · exact ⟨rfl, rfl⟩
  have side : LaneSide s (s.setWatermark w) := .setWatermark (.refl s)
  have lane : ∀ n, (s.setWatermark w).lane n = s.lane n := fun n => by unfold State.lane; rw [places.1]
  have queue : ∀ q, (s.setWatermark w).queue q = s.queue q := fun q => by unfold State.queue; rw [side.queues]
  have slot : ∀ i, (s.setWatermark w).slot i = s.slot i := fun i => by unfold State.slot; rw [side.slots]
  have held : heldRecords (s.setWatermark w) = heldRecords s := by
    simp only [heldRecords, lane, places.2, queue, slot]
  obtain ⟨descriptors, blocks, hunting, -⟩ := h
  obtain ⟨watermark, armed, disarmed⟩ := s.setWatermark_lowLaw range
  unfold MemoryLaw
  rw [held, free.1, free.2]
  rw [free.1] at armed disarmed
  exact ⟨descriptors, blocks, fun n => by rw [lane]; exact hunting n, watermark, armed, disarmed⟩

/-- The one event of RESET(STORE) leaves nothing held and everything free (R177). -/
theorem storeResetBlocks (watermark : s.store.watermark ≤ 1023) : MemoryLaw s.storeResetBlocks := by
  have lane : ∀ n, (s.storeResetBlocks.lane n).assembly = none := fun n => by
    rw [show s.storeResetBlocks.lane n = (s.lane n).storeReset from mapVec_get Lane.storeReset s.lanes n]
    unfold Lane.storeReset
    split
    · exact ‹_›
    · rfl
  have queue : ∀ q, (s.storeResetBlocks.queue q).list = [] := fun q => by
    rw [show s.storeResetBlocks.queue q = (s.queue q).storeReset from mapVec_get Queue.storeReset s.queues q]
    rfl
  have slot : ∀ i, (s.storeResetBlocks.slot i).occupant = none := fun i => by
    rw [show s.storeResetBlocks.slot i = (s.slot i).storeReset from mapVec_get Slot.storeReset s.slots i]
    rfl
  have none : heldRecords s.storeResetBlocks = [] := by
    simp only [heldRecords, lane, queue, slot]
    rfl
  unfold MemoryLaw
  rw [none]
  refine ⟨rfl, rfl, fun n _ => lane n, watermark, fun _ => ?_, fun off => by cases off⟩
  exact watermark.trans (show 1023 ≤ 1024 by decide)

theorem checkWindows (lanes : List LaneId) {u : State} (h : LaneChain s u) :
    LaneChain s (lanes.foldl (fun s n => s.checkWindow n) u) := h.foldl fun _ _ h => h.checkWindow

end MemoryLaw

/-- RESET(STORE) after its one event is a chain of changes of the lanes (R21, R47, R177). -/
theorem State.storeReset_chain (s : State) : LaneChain s.storeResetBlocks s.storeReset :=
  .grantMany (MemoryLaw.checkWindows _ .refl)

namespace MemoryLaw

variable {s t : State}

theorem storeReset (h : MemoryLaw s) : MemoryLaw s.storeReset :=
  s.storeReset_chain.keeps (fun _ _ => LaneFlow.keeps_MemoryLaw) (storeResetBlocks h.2.2.2.1)

theorem clearGroup (g : CounterGroup) (h : MemoryLaw s) : MemoryLaw (s.clearGroup g) := by
  cases g with
  | lane n => exact (LaneFlow.step n _ (.count (fun _ => .zero) fun _ _ => by simp [LaneCounters.zero])).keeps_MemoryLaw h
  | queue q =>
    exact (memoryLaw_iff _ 0).2
      ((QueueFlow.count s [] 0 q _ fun _ _ => QueueCounters.zero_inRange).keeps_MemoryLaw ((memoryLaw_iff s 0).1 h))
  | rules | link => exact h.sameRecords ⟨rfl, rfl, rfl, rfl, rfl, rfl⟩

end MemoryLaw

theorem Classifier.countDecision_withWalk (rule : Option Nat) (c : Classifier) :
    (c.countDecision rule).intake = c.intake := Classifier.countDecision_intake rule c

theorem State.outcome_payloadLength (s : State) (w : Walk) : (s.outcome w).payloadLength = w.record.payloadLength := by
  unfold State.outcome QueueChain.decidedRecord
  split <;> rfl

theorem MemoryLaw.endWalk {s : State} {w : Walk} (walk : s.classifier.walk = some w) (h : MemoryLaw s) :
    MemoryLaw (s.endWalk w) := by
  have account : ∀ x : Resource, Handling.account x ⟨s.decided w, [(s.outcome w, none)], 0⟩ = s.account x := by
    intro x
    have intake : (s.decided w).classifier.intake = s.classifier.intake := Classifier.countDecision_intake _ _
    have idle : (s.decided w).classifier.walk = none := rfl
    have cost : x.weightOf (s.outcome w) = x.weightOf w.record := congrArg x.cost (s.outcome_payloadLength w)
    unfold Handling.account State.account
    rw [State.weight_eq, State.weight_eq, intake, idle, walk]
    simp only [List.map_cons, List.map_nil, weigh_cons, weigh_nil, cost, Option.map_none, Option.map_some,
      Option.toList_none, Option.toList_some]
    change x.free s.store + (weigh _ (allLanes.flatMap fun n => (s.lane n).assembly.toList) + _ + 0 +
      weigh _ (allQueues.flatMap fun q => (s.queue q).list) +
      weigh _ (allSlots.flatMap fun i => ((s.slot i).occupant.map Occupant.record).toList)) + _ = _
    omega
  refine State.endWalk_records (law := Handling.MemoryLaw) (fun s k => (memoryLaw_iff s k).2)
    (fun _ _ => QueueFlow.keeps_MemoryLaw) (fun _ _ => sameRecords) ?_ ?_
  · intro s idle h
    obtain ⟨descriptors, blocks, hunting, low⟩ := (memoryLaw_iff s 0).1 h
    have account : ∀ x : Resource,
        ({ s with classifier := s.classifier.beginWalk s.clock } : State).account x = s.account x := by
      intro x
      unfold State.account
      rw [State.weight_eq, State.weight_eq, idle]
      change x.free s.store + (weigh _ (allLanes.flatMap fun n => (s.lane n).assembly.toList) +
        weigh _ (s.classifier.beginWalk s.clock).intake + weigh _ ((s.classifier.beginWalk s.clock).walk.map Walk.record).toList +
        weigh _ (allQueues.flatMap fun q => (s.queue q).list) +
        weigh _ (allSlots.flatMap fun i => ((s.slot i).occupant.map Occupant.record).toList)) = _
      unfold Classifier.beginWalk
      split
      · rename_i empty; rw [empty]
      · rename_i r rest intake
        simp only [intake, weigh_cons, weigh_nil, Option.map_none, Option.map_some, Option.toList_none, Option.toList_some]
        omega
    exact (memoryLaw_iff _ 0).2 ⟨(account _).trans descriptors, (account _).trans blocks, hunting, low⟩
  · obtain ⟨descriptors, blocks, hunting, low⟩ := (memoryLaw_iff s 0).1 h
    exact ⟨(account _).trans descriptors, (account _).trans blocks, hunting, low⟩

/-- The reservations are covered, and the whole store is accounted for. -/
def CoveredMemory (s : State) : Prop := CreditLaw s ∧ MemoryLaw s

theorem Effect.brings_MemoryLaw {s t : State} (h : Effect s t) (law : CoveredMemory s) : MemoryLaw t := by
  refine h.keeps_records (fun _ law => law.2) (fun _ _ same law => ⟨law.1.sameRecords same, law.2.sameRecords same⟩)
    (fun _ _ => MemoryLaw.sameRecords) MemoryLaw.powerOn ?lane ?queue ?watermark ?reset ?counters ?walk law
  case lane => exact fun s t law h => h.brings_MemoryLaw law.1 law.2
  case queue =>
    intro s t law h
    obtain ⟨k, -, chain⟩ := h.chain
    exact (memoryLaw_iff t k).2 (chain.keeps (fun _ _ => QueueFlow.keeps_MemoryLaw) ((memoryLaw_iff s 0).1 law.2))
  case watermark => exact fun s w range law => law.2.setWatermark range
  case reset => exact fun s law => law.2.storeReset
  case counters => exact fun s g law => law.2.clearGroup g
  case walk => exact fun w walk law => law.2.endWalk walk

/-- Settles O51: no change that a step is made of alters what is free and held together, and an accepted header finds room by
the credit law. -/
theorem stepKeepsMemoryLaw : Obligations.StepKeepsMemoryLaw := fun _ _ credit law h =>
  step_keeps_records (Pre := CoveredMemory) (fun _ law => law.2)
    (fun _ _ same law => ⟨law.1.sameRecords same, law.2.sameRecords same⟩) (fun _ _ => MemoryLaw.sameRecords)
    MemoryLaw.powerOn (fun _ _ taken law => ⟨law.1.takes taken, taken.keeps_MemoryLaw law.2⟩)
    (fun _ _ e law => e.brings_MemoryLaw law) h ⟨credit, law⟩

end Sys2Proof.Machine
end

section
/-! What becomes of the control link (R153 to R166): the changes that each of its operations is made of, and how a law that does
not speak of the request queue or the rule banks holds after every effect. -/
namespace Sys2Proof.Machine

/-- No counter of the link exceeds its 32 bits. -/
def LinkCounters.InRange (c : LinkCounters) : Prop := ∀ v ∈ c.values, v ≤ 4294967295

@[simp] theorem LinkCounters.inRange_iff (c : LinkCounters) : c.InRange ↔
    c.goodFrames ≤ 4294967295 ∧ c.lengthErrors ≤ 4294967295 ∧ c.framingErrors ≤ 4294967295 ∧ c.gapErrors ≤ 4294967295 ∧
    c.crcErrors ≤ 4294967295 ∧ c.requestsExecuted ≤ 4294967295 ∧ c.resent ≤ 4294967295 ∧ c.busyAnswers ≤ 4294967295 ∧
    c.sequenceAnswers ≤ 4294967295 ∧ c.refusedAnswers ≤ 4294967295 ∧ c.answersDropped ≤ 4294967295 ∧
    c.noticesSent ≤ 4294967295 := by
  simp [LinkCounters.InRange, LinkCounters.values]

/-- The receiver, the counters, the two settings of the line and the request in execution are as they were. -/
structure Link.SameLine (k k' : Link) : Prop where
  reception : k'.reception = k.reception
  counters : k'.counters = k.counters
  gapTimeout : k'.gapTimeout = k.gapTimeout
  bitRate : k'.bitRate = k.bitRate
  executing : k'.executing = k.executing

/-- One change that an effect on the control link is made of. -/
inductive LinkFlow (s : State) : State → Prop where
  | link (k : Link) (same : s.link.SameLine k) : LinkFlow s { s with link := k }
  | count (f : LinkCounters → LinkCounters) (range : ∀ c : LinkCounters, c.InRange → (f c).InRange) : LinkFlow s (s.countLink f)
  | listen (k : Reception) (hunts : k = s.link.reception.ended ∨ k = s.link.reception.rehunt) :
    LinkFlow s { s with link := { s.link with reception := k } }
  | raise (kind : AlertKind) (subject : Byte) : LinkFlow s (s.raise kind subject)
  | syncNotice : LinkFlow s s.syncNotice
  | beginNotice : LinkFlow s s.beginNotice
  | config (mode : IntegrityMode) (gap : Nat) (least : 1 ≤ gap) (most : gap ≤ 255) :
    LinkFlow s { s with link := { s.link with mode := mode, gapTimeout := gap } }

/-- An effect on the control link as a chain of changes. -/
abbrev LinkChain : State → State → Prop := Relation.ReflTransGen LinkFlow

namespace LinkChain

variable {a s : State}

theorem link {k : Link} (h : LinkChain a s) (same : s.link.SameLine k) : LinkChain a { s with link := k } := h.tail (.link k same)

theorem count {f : LinkCounters → LinkCounters} (h : LinkChain a s)
    (range : ∀ c : LinkCounters, c.InRange → (f c).InRange) : LinkChain a (s.countLink f) := h.tail (.count f range)

theorem raise {kind subject} (h : LinkChain a s) : LinkChain a (s.raise kind subject) := h.tail (.raise kind subject)

theorem popRequest (h : LinkChain a s) : LinkChain a s.popRequest := h.link ⟨rfl, rfl, rfl, rfl, rfl⟩

theorem place {f : OutFrame} (h : LinkChain a s) : LinkChain a (s.place f) := by
  rw [State.place_eq]
  refine h.link ?_
  unfold Link.send
  split <;> exact ⟨rfl, rfl, rfl, rfl, rfl⟩

theorem pump (h : LinkChain a s) : LinkChain a s.pump := by
  unfold State.pump
  split
  · exact h.link ⟨rfl, rfl, rfl, rfl, rfl⟩
  · exact h

theorem finishWith {wrap r body} (h : LinkChain a s) : LinkChain a (s.finishWith wrap r body) := by
  have cached := h.link (k := { s.link with cache := pushCache ⟨r.seq, responseTo r body⟩ s.link.cache }) ⟨rfl, rfl, rfl, rfl, rfl⟩
  exact (cached.count (f := fun c => { c with requestsExecuted := bump c.requestsExecuted }) fun c hc => by simp_all).place

theorem finish {r body} (h : LinkChain a s) : LinkChain a (s.finish r body) := h.finishWith

theorem answer {f : Frame} {count : LinkCounters → LinkCounters} (h : LinkChain a s)
    (range : ∀ c : LinkCounters, c.InRange → (count c).InRange) : LinkChain a (s.answer f count) := by
  unfold State.answer
  split
  · exact (h.count range).place
  · exact h.count fun c hc => by simp_all

theorem refuse {seq kind code} (h : LinkChain a s) : LinkChain a (s.refuse seq kind code) := h.answer fun c hc => by simp_all

theorem linkErrorTaken {count : LinkCounters → LinkCounters} (h : LinkChain a s)
    (range : ∀ c : LinkCounters, c.InRange → (count c).InRange) : LinkChain a (s.linkErrorTaken count) := by
  have flagged := h.link (k := { s.link with errorFlag := true }) ⟨rfl, rfl, rfl, rfl, rfl⟩
  have hunts : LinkChain a { s with link := { s.link with errorFlag := true, reception := s.link.reception.rehunt } } :=
    flagged.tail (.listen _ (.inr rfl))
  have raised := (hunts.count range).raise (kind := .linkError) (subject := 0)
  unfold State.linkErrorTaken
  dsimp only
  split
  · exact raised.link ⟨rfl, rfl, rfl, rfl, rfl⟩
  · exact raised

theorem frameHeard (h : LinkChain a s) : LinkChain a s.frameHeard :=
  count (f := fun c => { c with goodFrames := bump c.goodFrames }) (h.tail (.listen _ (.inl rfl))) fun c hc => by simp_all

theorem syncStep {seq} (h : LinkChain a s) : LinkChain a (s.syncStep seq) := by
  have taken := h.link (k := { s.link with
    requests := [], cache := [], expected := some (seq + 1)
    state := if s.link.state = .unsynced then .opened else s.link.state }) ⟨rfl, rfl, rfl, rfl, rfl⟩
  exact place (taken.tail .syncNotice)

theorem takeSync {seq} (h : LinkChain a s) : LinkChain a (s.takeSync seq) := by
  unfold State.takeSync
  split
  · exact h.syncStep
  · exact h.count fun c hc => by simp_all

theorem takeWaitingSyncs (h : LinkChain a s) : LinkChain a s.takeWaitingSyncs := by
  have each : ∀ (seqs : List Byte) (u : State), LinkChain a u → LinkChain a (seqs.foldl (fun s seq => s.takeSync seq) u) := by
    intro seqs
    induction seqs with
    | nil => exact fun _ h => h
    | cons seq rest ih => exact fun u h => ih _ h.takeSync
  exact each _ _ (h.link ⟨rfl, rfl, rfl, rfl, rfl⟩)

theorem syncArrives {seq body} (h : LinkChain a s) : LinkChain a (s.syncArrives seq body) := by
  unfold State.syncArrives
  split
  · exact h.refuse
  · split
    · exact h.link ⟨rfl, rfl, rfl, rfl, rfl⟩
    · exact h.takeSync

theorem takeUnsynced {f} (h : LinkChain a s) : LinkChain a (s.takeUnsynced f) := by
  unfold State.takeUnsynced
  split
  · exact h.answer fun c hc => hc
  · exact h.refuse

theorem takeNew {f} (h : LinkChain a s) : LinkChain a (s.takeNew f) := by
  unfold State.takeNew
  split
  · exact h.refuse
  · split
    · exact h.link ⟨rfl, rfl, rfl, rfl, rfl⟩
    · exact h.answer fun c hc => by simp_all

theorem resend {f} (h : LinkChain a s) : LinkChain a (s.resend f) := by
  unfold State.resend
  split
  · exact h
  · exact h.answer fun c hc => by simp_all

theorem takeSynced {f} (h : LinkChain a s) : LinkChain a (s.takeSynced f) := by
  unfold State.takeSynced
  split
  · exact h.takeNew
  · split
    · exact h
    · split
      · exact h.resend
      · exact h.answer fun c hc => by simp_all

/-- A good frame is heard, and then it is taken (R153, R158). -/
theorem heard_frameArrives {f} : LinkChain s.frameHeard (s.frameArrives f) := by
  have start : LinkChain s.frameHeard s.frameHeard := .refl
  unfold State.frameArrives
  dsimp only
  split
  · exact start
  · split
    · exact start.syncArrives
    · split
      · exact start.takeUnsynced
      · exact start.takeSynced
      · exact start.takeSynced

theorem frameArrives {f} (h : LinkChain a s) : LinkChain a (s.frameArrives f) := h.frameHeard.trans heard_frameArrives

theorem serveNotice (h : LinkChain a s) : LinkChain a s.serveNotice := by
  unfold State.serveNotice
  split
  · exact h.tail .beginNotice
  · exact h

theorem linkConfigAct {body} (h : LinkChain a s) : LinkChain a (Machine.linkConfigAct body s).1 := by
  unfold Machine.linkConfigAct
  split
  · exact h
  · rename_i mode gap arg
    have range : 1 ≤ gap ∧ gap ≤ 255 := by
      unfold linkConfigArg at arg
      split at arg
      · rename_i m g
        have most : g.toNat < 256 := g.isLt
        have least : g ≠ 0 → 1 ≤ g.toNat := fun nonzero => by
          have : g.toNat ≠ 0 := fun zero => nonzero (BitVec.eq_of_toNat_eq zero)
          omega
        split at arg
        · cases arg
        · rename_i nonzero
          split at arg
          · cases arg; exact ⟨least nonzero, by omega⟩
          · split at arg
            · cases arg; exact ⟨least nonzero, by omega⟩
            · cases arg
      · cases arg
    exact h.tail (.config mode gap range.1 range.2)

theorem clearErrorAct {body} (h : LinkChain a s) : LinkChain a (Machine.clearErrorAct body s).1 := h.link ⟨rfl, rfl, rfl, rfl, rfl⟩

theorem executing {t : State} (h : LinkChain s t) : t.link.executing = s.link.executing := by
  induction h with
  | refl => rfl
  | tail _ last ih =>
    refine Eq.trans ?_ ih
    cases last with
    | link k same => exact same.executing
    | count | listen | raise | syncNotice | beginNotice | config => rfl

theorem keeps {P : State → Prop} (flow : ∀ s t, LinkFlow s t → P s → P t) {s t : State} (h : LinkChain s t) (law : P s) : P t := by
  induction h with
  | refl => exact law
  | tail _ last ih => exact flow _ _ last ih

end LinkChain

theorem linkErrorCount_inRange (k : LinkErrorKind) (c : LinkCounters) (h : c.InRange) : (linkErrorCount k c).InRange := by
  cases k <;> simp_all [linkErrorCount]

/-- The counter of a link error stays in its range (R154, R168). -/
theorem linkError_inRange {count : LinkCounters → LinkCounters}
    (counts : (∃ k, count = linkErrorCount k) ∨ count = fun c => { c with gapErrors := bump c.gapErrors }) (c : LinkCounters)
    (h : c.InRange) : (count c).InRange := by
  obtain ⟨k, rfl⟩ | rfl := counts
  · exact linkErrorCount_inRange k c h
  · simp_all

/-- The end of a frame on the outbound line is the PART reset or a chain of changes of the link (R165, R176). -/
theorem State.frameSent_chain (s : State) : s.frameSent = s.partReset ∨ LinkChain s s.frameSent := by
  have idle : LinkChain s { s with link := { s.link with sending := none } } := LinkChain.link .refl ⟨rfl, rfl, rfl, rfl, rfl⟩
  unfold State.frameSent
  split
  · exact .inr .refl
  · exact .inl rfl
  · exact .inr idle.pump.serveNotice
  · exact .inr idle.pump.serveNotice

/-! ## How a law holds after every effect -/

/-- The Classifier works on as before: what it holds and counts is as it was. -/
structure Classifier.SameWork (c c' : Classifier) : Prop where
  intake : c'.intake = c.intake
  walk : c'.walk = c.walk
  matches_ : c'.matches_ = c.matches_
  counters : c'.counters = c.counters

/-- Other rule banks or another request in execution, and the Classifier at work as before. -/
def State.withRules (c : Classifier) (executing : Option Frame) (s : State) : State :=
  { s with classifier := c, link := { s.link with executing := executing } }

/-- A pending commit is taken by a change of the rules and a chain of changes of the link (R88). -/
theorem State.takeCommit_chain (s : State) : s.classifier.pendingCommit = false ∧ s.takeCommit = s ∨
    s.classifier.pendingCommit = true ∧ LinkChain (s.withRules s.classifier.commit none) s.takeCommit := by
  unfold State.takeCommit
  split
  · refine .inr ⟨‹_›, ?_⟩
    have free : LinkChain (s.withRules s.classifier.commit none) (s.withRules s.classifier.commit none) := .refl
    dsimp only
    split
    · exact free.finish.takeWaitingSyncs
    · exact free
  · exact .inl ⟨Bool.eq_false_of_not_eq_true ‹_›, rfl⟩

/-- A law is kept by a change of the link and the rules when a pending commit is taken. -/
theorem State.takeCommit_keeps {P : State → Prop} (link : ∀ s t, LinkFlow s t → P s → P t)
    (rules : ∀ s c x, s.classifier.SameWork c → P s → P (s.withRules c x)) {s : State} (law : P s) : P s.takeCommit := by
  obtain ⟨-, idle⟩ | ⟨-, chain⟩ := s.takeCommit_chain
  · rw [idle]; exact law
  · exact chain.keeps link (rules s _ _ ⟨rfl, rfl, rfl, rfl⟩ law)

/-- How a law holds after an effect, when it does not speak of the request queue or of the rule banks. -/
theorem Effect.keeps_line {P : State → Prop} {s t : State} (link : ∀ s t, LinkFlow s t → P s → P t)
    (powerOn : ∀ running, P (.powerOn s.pending s.lines running s.link.bitRate))
    (rules : ∀ s c x, s.classifier.SameWork c → P s → P (s.withRules c x))
    (lane : ∀ s t, LaneEffect s t → P s → P t) (queue : ∀ s t, QueueEffect s t → P s → P t)
    (notice : ∀ s t, NoticeEffect s t → P s → P t) (reset : ∀ s, P s → P s.storeReset)
    (counters : ∀ s g, P s → P (s.clearGroup g))
    (walk : ∀ w, s.classifier.walk = some w → P s → P (s.endWalk w)) (h : Effect s t) (law : P s) : P t := by
  have chain : ∀ {s t}, LinkChain s t → P s → P t := fun h law => h.keeps link law
  have popped : P s.popRequest := chain (LinkChain.popRequest .refl) law
  cases h with
  | none => exact law
  | powerOn running => exact powerOn running
  | lane _ h => exact lane s t h law
  | queue _ h => exact queue s t h law
  | notice _ h => exact notice s t h law
  | linkError _ count counts => exact chain (LinkChain.linkErrorTaken .refl (linkError_inRange counts)) law
  | frame _ f => exact chain (LinkChain.frameArrives .refl) law
  | frameSent =>
    obtain reset | sent := s.frameSent_chain
    · rw [reset]; exact powerOn true
    · exact chain sent law
  | serveNotice => exact chain (LinkChain.serveNotice .refl) law
  | answered r rest body starts h =>
    rename_i u
    refine chain (LinkChain.finish .refl) ?_
    cases h with
    | none => exact popped
    | lane h => exact lane _ _ h popped
    | queue h => exact queue _ _ h popped
    | notice h => exact notice _ _ h popped
    | ruleSet body =>
      unfold ruleSetAct
      split
      · exact popped
      · exact rules s.popRequest _ s.link.executing ⟨rfl, rfl, rfl, rfl⟩ popped
    | defaultSet body =>
      unfold defaultSetAct
      split
      · exact popped
      · exact rules s.popRequest _ s.link.executing ⟨rfl, rfl, rfl, rfl⟩ popped
    | rulesRevert body => exact rules s.popRequest _ s.link.executing ⟨rfl, rfl, rfl, rfl⟩ popped
    | linkConfig body => exact chain (LinkChain.linkConfigAct .refl) popped
    | clearError body => exact chain (LinkChain.clearErrorAct .refl (body := body)) popped
    | clearGroup g => exact counters _ g popped
    | storeReset => exact reset _ popped
  | commit r =>
    unfold State.commitRequest
    split
    · exact chain (LinkChain.finish .refl) popped
    · split
      · exact rules s.popRequest { s.classifier with pendingCommit := true } (some r) ⟨rfl, rfl, rfl, rfl⟩ popped
      · have committed := rules s.popRequest s.classifier.commit s.link.executing ⟨rfl, rfl, rfl, rfl⟩ popped
        exact chain (LinkChain.finish .refl) committed
  | resetPart r =>
    have pending : LinkChain s.popRequest { s.popRequest with link := { s.popRequest.link with resetPending := true } } :=
      LinkChain.link .refl ⟨rfl, rfl, rfl, rfl, rfl⟩
    exact chain pending.finishWith popped
  | walkEnd _ w inFlight => exact walk w inFlight law

end Sys2Proof.Machine
end

section
/-! The level law (R138) after every step. -/
namespace Sys2Proof.Machine

theorem Notice.applyEnable_levels (now : Nat) (synced : Bool) (n : Notice) : (n.applyEnable now synced).levels = n.levels := by
  unfold Notice.applyEnable
  split
  · rfl
  · exact Notice.request_levels _ _
  · rfl
  · rfl
  · rfl
  · split <;> rfl

theorem storeReset_levels (s : State) (q : QueueId) : s.storeReset.notice.levels[q] = .zero := by
  rw [s.storeReset_side.levels]
  exact Vector.getElem_replicate q.isLt

namespace LevelLaw

variable {s t : State}

theorem work (c : Classifier) (h : LevelLaw s) : LevelLaw { s with classifier := c } := h.of_eq rfl rfl

theorem linkFlow (flow : LinkFlow s t) (h : LevelLaw s) : LevelLaw t := by
  cases flow with
  | link | count | listen | config | beginNotice => exact h.of_eq rfl rfl
  | raise => exact h.raise
  | syncNotice => exact h.syncNotice

/-- Without records in a queue and with the power-on levels nothing is unreported. -/
theorem of_empty (queues : ∀ q, (s.queue q).list = []) (levels : ∀ q : QueueId, s.notice.levels[q] = .zero) : LevelLaw s := by
  intro q
  rw [levels q, Queue.queued, queues q]
  decide

theorem powerOn (pending lines running rate) : LevelLaw (.powerOn pending lines running rate) :=
  of_empty (fun q => by rw [State.queue_powerOn]; rfl) fun q => Vector.getElem_replicate q.isLt

theorem fetchAct {body : List Byte} (h : LevelLaw s) : LevelLaw (Machine.fetchAct body s).1 := by
  unfold Machine.fetchAct
  split
  · exact h
  · split
    · exact h
    · exact h.deliverMany

theorem queueEffect (e : QueueEffect s t) (h : LevelLaw s) : LevelLaw t := by
  cases e with
  | queueConfig => exact h.queueConfigAct
  | queuePurge => exact h.queuePurgeAct
  | fetch => exact h.fetchAct
  | release => exact h.settleAct fun _ _ h => h.releaseHandle
  | returnHandles => exact h.settleAct fun _ _ h => h.returnHandle
  | extend => exact h.settleAct fun _ _ h => h.extendHandle
  | leaseExpired => exact h.expireLease

theorem noticeEffect (e : NoticeEffect s t) (h : LevelLaw s) : LevelLaw t := by
  cases e with
  | noticeAck body =>
    unfold noticeAckAct
    split
    · exact h
    · split
      · split
        · exact h.acknowledge
        · exact h
      · exact h
  | noticeConfig body =>
    unfold noticeConfigAct
    split
    · exact h
    · rename_i enable interval watermark _
      have set : LevelLaw { s with notice := { s.notice with enabled := enable, interval := interval } } := h.of_eq rfl rfl
      exact (laneSide (.setWatermark (.refl _)) set).of_eq rfl (Notice.applyEnable_levels _ _ _)
  | renew => exact h.of_eq rfl rfl
  | hold => exact h.evalDue

theorem storeReset : LevelLaw s.storeReset :=
  of_empty (fun q => by rw [State.queue_storeReset]) (storeReset_levels s)

theorem clearGroup (g : CounterGroup) (h : LevelLaw s) : LevelLaw (s.clearGroup g) := by
  cases g with
  | lane | rules | link => exact h.of_eq rfl rfl
  | queue => exact h.countQueue

theorem handOn (d : Decision) (r : Record) (h : LevelLaw s) : LevelLaw (s.handOn d r) := by
  cases d with
  | discard => exact h.freeRecord.work _
  | deliver q label =>
    unfold State.handOn
    dsimp only
    split
    · exact offer (h.work _)
    · exact countQueue (h.freeRecord.work _)

theorem endWalk (w : Walk) (h : LevelLaw s) : LevelLaw (s.endWalk w) :=
  (State.takeCommit_keeps (fun _ _ => linkFlow) (fun _ _ _ _ h => h.of_eq rfl rfl) ((h.work _).handOn _ w.record)).work _

theorem effect (e : Effect s t) (h : LevelLaw s) : LevelLaw t :=
  e.keeps_line (fun _ _ => linkFlow) (fun _ => powerOn _ _ _ _) (fun _ _ _ _ h => h.of_eq rfl rfl)
    (fun _ _ e h => laneSide e.side h) (fun _ _ => queueEffect)
    (fun _ _ => noticeEffect) (fun _ _ => storeReset) (fun _ => clearGroup) (fun w _ => endWalk w) h

theorem step (h : LevelLaw s) (taken : Machine.step s = .next t) : LevelLaw t := by
  refine step_keeps (fun _ _ h => h.of_eq rfl rfl) (fun s t h taken => ?_)
    (fun i s t h => exec_keeps powerOn fun t e => effect e h) (fun _ h _ => h.of_eq rfl rfl) h taken
  cases taken <;> exact h.of_eq rfl rfl

end LevelLaw

/-- Settles O53, effect by effect. -/
theorem stepKeepsLevelLaw : Obligations.StepKeepsLevelLaw := fun _ _ h => h.step

end Sys2Proof.Machine
end

section
/-! The rules law (R70, R87 to R89) after every step. -/
namespace Sys2Proof.Machine

theorem LinkChain.side {s t : State} (h : LinkChain s t) : LinkSide s t := by
  induction h with
  | refl => exact .refl s
  | tail _ last ih =>
    refine ih.trans ?_
    cases last with
    | link => exact .setLink (.refl _)
    | count => exact .countLink (.refl _)
    | listen => exact .setLink (.refl _)
    | raise => exact .raise (.refl _)
    | syncNotice => exact .syncNotice (.refl _)
    | beginNotice => exact .beginNotice (.refl _)
    | config => exact .setLink (.refl _)

/-- The rules law as it stands for the rule banks of the Classifier and the request in execution. -/
structure Classifier.RulesOk (c : Classifier) (executing : Option Frame) : Prop where
  active : c.active.valid = true
  pending : c.pendingCommit = executing.isSome
  walking : c.pendingCommit = true → c.walk.isSome = true ∧ c.staging.valid = true

theorem rulesLaw_iff (s : State) : RulesLaw s ↔ s.classifier.RulesOk s.link.executing :=
  ⟨fun ⟨active, pending, walking⟩ => ⟨active, pending, walking⟩,
    fun ⟨active, pending, walking⟩ => ⟨active, pending, walking⟩⟩

/-- The active bank is valid, and no request is in execution: so it is when a request begins (R161). -/
theorem Classifier.RulesOk.of_idle {c : Classifier} (active : c.active.valid = true) (idle : c.pendingCommit = false) :
    c.RulesOk none :=
  ⟨active, idle, fun pending => by rw [idle] at pending; cases pending⟩

theorem RuleBank.valid_of_firstInvalid {b : RuleBank} (h : b.firstInvalid = none) : b.valid = true := by
  unfold RuleBank.valid
  rw [h]
  rfl

namespace RulesLaw

variable {s t : State}

theorem of_eq (h : RulesLaw s) (classifier : t.classifier = s.classifier) (executing : t.link.executing = s.link.executing) :
    RulesLaw t := by
  rw [rulesLaw_iff] at h ⊢
  rwa [classifier, executing]

theorem chain (flow : LinkChain s t) (h : RulesLaw s) : RulesLaw t := h.of_eq flow.side.classifier flow.executing

theorem powerOn (pending lines running rate) : RulesLaw (.powerOn pending lines running rate) := by
  have valid : RuleBank.powerOn.valid = true := by decide
  exact (rulesLaw_iff _).2 (.of_idle valid rfl)

theorem laneSide (side : LaneSide s t) (h : RulesLaw s) : RulesLaw t := by
  obtain ⟨active, pending, walking⟩ := h
  refine ⟨by rw [side.active]; exact active, by rw [side.pendingCommit, side.link]; exact pending, fun waits => ?_⟩
  rw [side.pendingCommit] at waits
  obtain ⟨walk, staging⟩ := walking waits
  exact ⟨by rw [side.walk walk]; exact walk, by rw [side.staging]; exact staging⟩

theorem queueSide (side : QueueSide s t) (h : RulesLaw s) : RulesLaw t := h.of_eq side.classifier (by rw [side.link])

theorem noticeEffect (e : NoticeEffect s t) (h : RulesLaw s) : RulesLaw t := by
  cases e with
  | noticeAck => rw [noticeAckAct_eq]; exact h.of_eq rfl rfl
  | noticeConfig body =>
    unfold noticeConfigAct
    split
    · exact h
    · rename_i enable interval watermark _
      have set : RulesLaw { s with notice := { s.notice with enabled := enable, interval := interval } } := h.of_eq rfl rfl
      exact (laneSide (.setWatermark (.refl _)) set).of_eq rfl rfl
  | renew => exact h.of_eq rfl rfl
  | hold => exact h.of_eq rfl rfl

/-- What the execution of a request does, with no other in execution, leaves the active bank valid (R161). -/
theorem blockEffect (e : BlockEffect s t) (idle : s.link.executing = none) (h : RulesLaw s) : RulesLaw t := by
  have settled : s.classifier.pendingCommit = false := by rw [h.2.1, idle]; rfl
  have set : ∀ c : Classifier, c.active = s.classifier.active → c.pendingCommit = s.classifier.pendingCommit →
      RulesLaw { s with classifier := c } := fun c active pending => by
    rw [rulesLaw_iff]
    exact idle ▸ .of_idle (active ▸ h.1) (pending.trans settled)
  cases e with
  | none => exact h
  | lane e => exact laneSide e.side h
  | queue e => exact queueSide e.side h
  | notice e => exact noticeEffect e h
  | ruleSet body =>
    unfold ruleSetAct
    split
    · exact h
    · exact set _ rfl rfl
  | defaultSet body =>
    unfold defaultSetAct
    split
    · exact h
    · exact set _ rfl rfl
  | rulesRevert => exact set _ rfl rfl
  | linkConfig => exact chain (LinkChain.linkConfigAct .refl) h
  | clearError body => exact chain (LinkChain.clearErrorAct .refl (body := body)) h
  | clearGroup g =>
    cases g with
    | lane | queue => exact h.of_eq rfl rfl
    | rules => exact set _ rfl rfl
    | link => exact h.of_eq rfl rfl
  | storeReset => exact laneSide s.storeReset_side ((set s.classifier.storeReset rfl rfl).of_eq rfl rfl)

theorem commitRequest (r : Frame) (idle : s.link.executing = none) (h : RulesLaw s) : RulesLaw (s.commitRequest r) := by
  unfold State.commitRequest
  split
  · exact chain (LinkChain.finish .refl) h
  · rename_i valid
    have staging := RuleBank.valid_of_firstInvalid valid
    split
    · rename_i walk
      exact ⟨h.1, rfl, fun _ => ⟨walk, staging⟩⟩
    · have committed : RulesLaw { s with classifier := s.classifier.commit } := by
        rw [rulesLaw_iff]
        exact idle ▸ .of_idle staging rfl
      exact chain (LinkChain.finish .refl) committed

theorem endWalk (w : Walk) (h : RulesLaw s) : RulesLaw (s.endWalk w) := by
  set u := (s.decided w).handOn (s.classifier.active.judge w.record).2 w.record
  have kept : u.classifier.active = s.classifier.active ∧ u.classifier.pendingCommit = s.classifier.pendingCommit ∧
      u.classifier.staging = s.classifier.staging := by
    have handed := State.handOn_classifier (s := s.decided w) (s.classifier.active.judge w.record).2 w.record
    have counted : ∀ rule, (s.classifier.countDecision rule).active = s.classifier.active ∧
        (s.classifier.countDecision rule).pendingCommit = s.classifier.pendingCommit ∧
        (s.classifier.countDecision rule).staging = s.classifier.staging := fun rule => by
      cases rule <;> exact ⟨rfl, rfl, rfl⟩
    obtain ⟨active, pending, staging⟩ := counted (s.classifier.active.judge w.record).1
    exact ⟨(congrArg Classifier.active handed).trans active, (congrArg Classifier.pendingCommit handed).trans pending,
      (congrArg Classifier.staging handed).trans staging⟩
  have executing : u.link.executing = s.link.executing := by
    refine State.handOn_keeps (P := fun v => v.link.executing = s.link.executing) (fun _ _ h => h) (fun _ _ side h => ?_) _ _ rfl
    exact (congrArg Link.executing side.link).trans h
  obtain ⟨active, pending, staging⟩ := kept
  have taken : u.takeCommit.classifier.active.valid = true ∧ u.takeCommit.classifier.pendingCommit = false ∧
      u.takeCommit.link.executing = none := by
    obtain ⟨settled, same⟩ | ⟨waits, chain⟩ := u.takeCommit_chain
    · have idle : s.link.executing.isSome = false := by rw [← h.2.1, ← pending, settled]
      rw [same, active, settled, executing]
      exact ⟨h.1, rfl, Option.isNone_iff_eq_none.1 (by rw [← Option.not_isSome, idle]; rfl)⟩
    · rw [chain.side.classifier, chain.executing]
      refine ⟨?_, rfl, rfl⟩
      change u.classifier.staging.valid = true
      rw [staging]
      exact (h.2.2 (pending ▸ waits)).2
  obtain ⟨valid, settled, idle⟩ := taken
  have began : (u.takeCommit.classifier.beginWalk u.takeCommit.clock).active = u.takeCommit.classifier.active ∧
      (u.takeCommit.classifier.beginWalk u.takeCommit.clock).pendingCommit = u.takeCommit.classifier.pendingCommit := by
    unfold Classifier.beginWalk
    split <;> exact ⟨rfl, rfl⟩
  have rules : RulesLaw { u.takeCommit with classifier := u.takeCommit.classifier.beginWalk u.takeCommit.clock } := by
    rw [rulesLaw_iff]
    exact idle ▸ .of_idle (began.1 ▸ valid) (began.2.trans settled)
  exact rules

theorem effect (e : Effect s t) (h : RulesLaw s) : RulesLaw t := by
  have popped : RulesLaw s.popRequest := h.of_eq rfl rfl
  cases e with
  | none => exact h
  | powerOn => exact powerOn _ _ _ _
  | lane _ e => exact laneSide e.side h
  | queue _ e => exact queueSide e.side h
  | notice _ e => exact noticeEffect e h
  | linkError _ count counts => exact chain (LinkChain.linkErrorTaken .refl (linkError_inRange counts)) h
  | frame => exact chain (LinkChain.frameArrives .refl) h
  | frameSent =>
    obtain reset | sent := s.frameSent_chain
    · rw [reset]; exact powerOn _ _ _ _
    · exact chain sent h
  | serveNotice => exact chain (LinkChain.serveNotice .refl) h
  | answered r rest body starts e => exact chain (LinkChain.finish .refl) (blockEffect e starts.2.1 popped)
  | commit r rest starts => exact commitRequest r starts.2.1 popped
  | resetPart =>
    have pending : LinkChain s.popRequest { s.popRequest with link := { s.popRequest.link with resetPending := true } } :=
      LinkChain.link .refl ⟨rfl, rfl, rfl, rfl, rfl⟩
    exact chain pending.finishWith popped
  | walkEnd _ w => exact endWalk w h

theorem step (h : RulesLaw s) (taken : Machine.step s = .next t) : RulesLaw t := by
  refine step_keeps (fun _ _ h => h.of_eq rfl rfl) (fun s t h taken => ?_)
    (fun i s t h => exec_keeps powerOn fun t e => effect e h) (fun _ h _ => h.of_eq rfl rfl) h taken
  cases taken <;> exact h.of_eq rfl rfl

end RulesLaw

/-- Settles O54, effect by effect: a pending commit is taken before the next walk begins. -/
theorem stepKeepsRulesLaw : Obligations.StepKeepsRulesLaw := fun _ _ h => h.step

end Sys2Proof.Machine
end

section
/-! The link law (R152 to R168) and the notice law (R136, R140, R141) after every step. -/
namespace Sys2Proof.Machine

/-- The Notice Unit's own effects leave the control link alone. -/
theorem NoticeEffect.link {s t : State} (h : NoticeEffect s t) : t.link = s.link := by
  cases h with
  | noticeAck => rw [noticeAckAct_eq]
  | noticeConfig body =>
    unfold noticeConfigAct
    split
    · rfl
    · rename_i enable interval watermark _
      have side : LaneSide { s with notice := { s.notice with enabled := enable, interval := interval } } _ :=
        .setWatermark (w := watermark) (.refl _)
      exact side.link
  | renew => rfl
  | hold => rfl

theorem State.handOn_link (s : State) (d : Decision) (r : Record) : (s.handOn d r).link = s.link :=
  State.handOn_keeps (P := fun u => u.link = s.link) (fun _ _ h => h) (fun _ _ side h => side.link.trans h) d r rfl

/-- CLEAR_ERROR takes no link to UNSYNCED and none out of it (R156). -/
theorem clearError_unsynced (x : LinkState) : (if x = .halted then .opened else x) = LinkState.unsynced ↔ x = .unsynced := by
  cases x <;> decide

namespace LinkLaw

variable {s t : State}

/-- Between the leaving of the request and its answer the fields of the link law alone matter. -/
theorem Popped.of_eq {r : Frame} {k k' : Link} (h : Popped r k) (requests : k'.requests = k.requests) (cache : k'.cache = k.cache)
    (outbound : k'.outbound = k.outbound) (executing : k'.executing = k.executing) (sending : k'.sending = k.sending)
    (syncWaiting : k'.syncWaiting = k.syncWaiting) (expected : k'.expected = k.expected)
    (state : k'.state = .unsynced ↔ k.state = .unsynced) (resetPending : k'.resetPending = k.resetPending) : Popped r k' := by
  obtain ⟨ok, idle, room, syncs, reset⟩ := h
  refine ⟨ok.of_eq ?_ cache outbound executing sending syncWaiting expected state resetPending, executing.trans idle,
    outbound ▸ room, syncWaiting.trans syncs, resetPending.trans reset⟩
  dsimp only
  rw [requests]

/-- The execution of a request leaves what the link law speaks of as it is, until its answer. -/
theorem blockEffect {r : Frame} (e : BlockEffect s t) (h : Popped r s.link) : Popped r t.link := by
  cases e with
  | none => exact h
  | lane e => rw [e.side.link]; exact h
  | queue e => rw [e.side.link]; exact h
  | notice e => rw [e.link]; exact h
  | ruleSet body => unfold ruleSetAct; split <;> exact h
  | defaultSet body => unfold defaultSetAct; split <;> exact h
  | rulesRevert => exact h
  | linkConfig body =>
    unfold linkConfigAct
    split
    · exact h
    · exact h.of_eq rfl rfl rfl rfl rfl rfl rfl Iff.rfl rfl
  | clearError => exact h.of_eq rfl rfl rfl rfl rfl rfl rfl (clearError_unsynced s.link.state) rfl
  | clearGroup g =>
    cases g with
    | lane | queue | rules => exact h
    | link => exact h.of_eq rfl rfl rfl rfl rfl rfl rfl Iff.rfl rfl
  | storeReset => rw [s.storeReset_side.link]; exact h

theorem effect (e : Effect s t) (h : LinkLaw s) : LinkLaw t := by
  cases e with
  | none => exact h
  | powerOn => exact powerOn _ _ _ _
  | lane _ e => exact h.of_eq e.side.link
  | queue _ e => exact h.of_eq e.side.link
  | notice _ e => exact h.of_eq e.link
  | linkError => exact h.linkErrorTaken
  | frame => exact h.frameArrives
  | frameSent =>
    unfold State.frameSent
    split
    · exact h
    · exact powerOn _ _ _ _
    · exact (h.popSending ‹_› rfl).serveNotice
    · exact (h.popSending ‹_› rfl).serveNotice
  | serveNotice => exact h.serveNotice
  | answered r rest body starts e => exact finish (blockEffect e (popped h starts))
  | commit r rest starts => exact commitRequest (popped h starts)
  | resetPart r rest starts => exact finishWith (popped h starts) rfl
  | walkEnd _ w =>
    have handed : LinkLaw ((s.decided w).handOn (s.classifier.active.judge w.record).2 w.record) :=
      h.of_eq (State.handOn_link (s.decided w) _ _)
    exact handed.takeCommit.of_eq rfl

theorem step (h : LinkLaw s) (taken : Machine.step s = .next t) : LinkLaw t := by
  refine step_keeps (fun _ _ h => h.of_eq rfl) (fun s t h taken => ?_) (fun i s t h => exec_keeps powerOn fun t e => effect e h)
    (fun _ h _ => h.of_eq rfl) h taken
  cases taken with
  | control k line => exact (LinkLaw.iff _).2 (((LinkLaw.iff s).1 h).of_eq rfl rfl rfl rfl rfl rfl rfl Iff.rfl rfl)
  | lane => exact h.of_eq rfl

end LinkLaw

/-- Settles O55, effect by effect. -/
theorem stepKeepsLinkLaw : Obligations.StepKeepsLinkLaw := fun _ _ h => h.step

namespace NoticeLaw

variable {s t : State}

theorem noticeEffect (e : NoticeEffect s t) (h : NoticeLaw s) : NoticeLaw t := by
  cases e with
  | noticeAck body =>
    unfold noticeAckAct
    split
    · exact h
    · split
      · split
        · exact (NoticeLaw.iff _).2 (Notice.Ok.acknowledge ((NoticeLaw.iff s).1 h) ‹_›)
        · exact h
      · exact h
  | noticeConfig => exact h.noticeConfigAct
  | renew awaiting due =>
    have timer : s.notice.renotice.isSome = true := by
      cases renotice : s.notice.renotice with
      | none => rw [renotice] at due; cases due
      | some d => rfl
    exact (NoticeLaw.iff _).2 (((NoticeLaw.iff s).1 h).renew awaiting timer)
  | hold q => exact queueSide (.evalDue (.refl s)) h

theorem blockEffect (e : BlockEffect s t) (h : NoticeLaw s) : NoticeLaw t := by
  cases e with
  | none => exact h
  | lane e => exact laneSide e.side h
  | queue e => exact queueSide e.side h
  | notice e => exact noticeEffect e h
  | ruleSet body => unfold ruleSetAct; split <;> exact h.of_eq rfl rfl
  | defaultSet body => unfold defaultSetAct; split <;> exact h.of_eq rfl rfl
  | rulesRevert => exact h.of_eq rfl rfl
  | linkConfig body => unfold linkConfigAct; split <;> exact h.of_eq rfl rfl
  | clearError body =>
    have same : (clearErrorAct body s).1.synced = s.synced := decide_eq_decide.2 (not_congr (clearError_unsynced s.link.state))
    rw [NoticeLaw.iff] at h ⊢
    rw [same]
    exact h
  | clearGroup g => cases g <;> exact h.of_eq rfl rfl
  | storeReset =>
    have blocks : NoticeLaw s.storeResetBlocks := by
      rw [NoticeLaw.iff] at h ⊢
      refine h.setLevels fun due => ?_
      obtain ⟨q, due⟩ := (Notice.Ok.anyDue_iff _).1 due
      have zero : (Vector.replicate 8 Level.zero)[q] = .zero := Vector.getElem_replicate q.isLt
      dsimp only at due
      rw [zero] at due
      cases due
    exact laneSide s.storeReset_side blocks

theorem takeCommit (h : NoticeLaw s) : NoticeLaw s.takeCommit := by
  unfold State.takeCommit
  split
  · dsimp only
    split
    · exact takeWaitingSyncs (finish (h.of_eq rfl rfl))
    · exact h.of_eq rfl rfl
  · exact h

theorem effect (e : Effect s t) (h : NoticeLaw s) : NoticeLaw t := by
  have popped : NoticeLaw s.popRequest := h.of_eq rfl rfl
  cases e with
  | none => exact h
  | powerOn => exact powerOn _ _ _ _
  | lane _ e => exact laneSide e.side h
  | queue _ e => exact queueSide e.side h
  | notice _ e => exact noticeEffect e h
  | linkError => exact h.linkErrorTaken
  | frame => exact h.frameArrives
  | frameSent =>
    have idle : NoticeLaw { s with link := { s.link with sending := none } } := h.of_eq rfl rfl
    unfold State.frameSent
    split
    · exact h
    · exact powerOn _ _ _ _
    · exact idle.pump.serveNotice
    · exact idle.pump.serveNotice
  | serveNotice => exact h.serveNotice
  | answered r rest body starts e => exact (blockEffect e popped).finish
  | commit r =>
    unfold State.commitRequest
    split
    · exact popped.finish
    · split
      · exact popped.of_eq rfl rfl
      · exact finish (popped.of_eq rfl rfl)
  | resetPart => exact finishWith (popped.of_eq rfl rfl)
  | walkEnd _ w =>
    have handed : NoticeLaw ((s.decided w).handOn (s.classifier.active.judge w.record).2 w.record) :=
      State.handOn_keeps (fun _ _ h => h.of_eq rfl rfl) (fun _ _ side h => queueSide side h) _ _ (h.of_eq rfl rfl)
    exact handed.takeCommit.of_eq rfl rfl

theorem step (h : NoticeLaw s) (taken : Machine.step s = .next t) : NoticeLaw t := by
  refine step_keeps (fun _ _ h => h.of_eq rfl rfl) (fun s t h taken => ?_)
    (fun i s t h => exec_keeps powerOn fun t e => effect e h) (fun _ h _ => h.of_eq rfl rfl) h taken
  cases taken <;> exact h.of_eq rfl rfl

end NoticeLaw

/-- Settles O56, effect by effect. -/
theorem stepKeepsNoticeLaw : Obligations.StepKeepsNoticeLaw := fun _ _ h => h.step

end Sys2Proof.Machine
end

section
/-! The time law (R22, R71, R129, R139, R147): every change that a step is made of sets its deadlines in the future, and time
passes only when none has arrived. -/
namespace Sys2Proof.Machine

/-- The hold expiry of a queue that is not due lies ahead (R139). -/
def Level.HoldAhead (c : QueueConfig) (count now : Nat) (l : Level) : Prop :=
  c.noticeHold ≠ 0 → l.reported < count → l.due = false → ∀ t ∈ l.since, now ≤ t + 1000 * c.noticeHold

/-- The renotice timer runs in AWAITING_ACK alone, and its deadline lies ahead (R147). -/
def Notice.TimerAhead (now : Nat) (n : Notice) : Prop :=
  (n.renotice.isSome = true → n.state = .awaitingAck) ∧ ∀ d ∈ n.renotice, now ≤ d

/-- A walk in flight began at most 5 µs ago (R71). -/
def Walk.Fresh (now : Nat) (w : Walk) : Prop := w.begun ≤ now ∧ now ≤ w.begun + 5

/-- The parts of the time law, each for the block it speaks of. -/
structure TimeParts (s : State) : Prop where
  lanes : ∀ n, (s.lane n).TimerLaw s.clock
  leases : ∀ i, ∀ o ∈ (s.slot i).occupant, ∀ d ∈ o.deadline, s.clock ≤ d
  holds : ∀ q : QueueId, s.notice.levels[q].HoldAhead (s.queue q).config (s.queue q).queued s.clock
  renotice : s.notice.TimerAhead s.clock
  walk : ∀ w ∈ s.classifier.walk, w.Fresh s.clock
  still : s.running = false → s.clock = 0

theorem timeLaw_iff (s : State) : TimeLaw s ↔ TimeParts s := by
  constructor
  · rintro ⟨lanes, leases, holds, awaiting, ahead, walk, still⟩
    exact ⟨lanes, leases, holds, ⟨awaiting, ahead⟩, walk, still⟩
  · rintro ⟨lanes, leases, holds, ⟨awaiting, ahead⟩, walk, still⟩
    exact ⟨lanes, leases, holds, awaiting, ahead, walk, still⟩

/-! ## The Notice Unit -/

/-- A due state evaluated now is not due only when its hold expiry lies ahead (R139). -/
theorem Level.HoldAhead.of_isDue (c : QueueConfig) (count now : Nat) (l : Level) :
    ({ l with due := isDue c count l now } : Level).HoldAhead c count now := by
  intro hold above notDue t since
  have since : l.since = some t := since
  have above : l.reported < count := above
  have notDue : isDue c count l now = false := notDue
  unfold isDue at notDue
  simp only [above, since, hold, decide_true, Bool.true_and, Bool.or_eq_false_iff, ne_eq, not_false_eq_true,
    decide_eq_false_iff_not, not_le] at notDue
  exact notDue.2.le

theorem Level.HoldAhead.of_since_none {c : QueueConfig} {count now : Nat} {l : Level} (h : l.since = none) :
    l.HoldAhead c count now := fun _ _ _ t since => by rw [h] at since; cases since

namespace Notice.TimerAhead

variable {now : Nat} {n : Notice}

theorem of_none {m : Notice} (h : m.renotice = none) : m.TimerAhead now := by
  refine ⟨fun some => ?_, fun d some => ?_⟩ <;> rw [h] at some <;> cases some

theorem request (h : n.TimerAhead now) (b : Bool) : (n.request b).TimerAhead now := by
  unfold Notice.request
  split
  · rename_i asked
    have none : n.renotice = none := by
      cases renotice : n.renotice with
      | none => rfl
      | some d =>
        have awaiting := h.1 (by rw [renotice]; rfl)
        rw [asked.1] at awaiting
        cases awaiting
    exact of_none none
  · exact h

theorem raise (h : n.TimerAhead now) (k x b) : (n.raise k x b).TimerAhead now := by
  have alerts : ({ n with alerts := raiseAlert k x n.alerts } : Notice).TimerAhead now := h
  unfold Notice.raise
  dsimp only
  split
  · exact alerts.request b
  · exact alerts
  · split
    · exact h
    · exact alerts

theorem becameDue (h : n.TimerAhead now) (q b) : (n.becameDue q b).TimerAhead now := by
  unfold Notice.becameDue
  split
  · exact h.request b
  · exact h
  · split
    · exact h
    · exact h

theorem evalDue (h : n.TimerAhead now) (q c k t b) : (n.evalDue q c k t b).TimerAhead now := by
  have set : (n.setLevel q { n.levels[q] with due := isDue c k n.levels[q] t }).TimerAhead now := h
  unfold Notice.evalDue
  dsimp only
  split
  · exact set.becameDue q b
  · exact set

theorem follow (h : n.TimerAhead now) (q c o k t b) : (n.follow q c o k t b).TimerAhead now :=
  evalDue (n := n.setLevel q (followLevel n.levels[q] o k t)) h q c k t b

/-- A deadline that is set now lies ahead (R142, R147). -/
theorem renoticeDeadline (awaiting : n.state = .awaitingAck) (m : Notice) :
    ({ n with renotice := m.renoticeDeadline now } : Notice).TimerAhead now := by
  refine ⟨fun _ => awaiting, fun d set => ?_⟩
  unfold Notice.renoticeDeadline at set
  dsimp only at set
  split at set
  · cases set; exact Nat.le_add_right _ _
  · cases set

theorem applyEnable (h : n.TimerAhead now) (b : Bool) : (n.applyEnable now b).TimerAhead now := by
  unfold Notice.applyEnable
  split
  · exact h
  · exact h.request b
  · rename_i waiting _
    refine of_none ?_
    cases renotice : n.renotice with
    | none => rfl
    | some d =>
      have awaiting := h.1 (by rw [renotice]; rfl)
      rw [waiting] at awaiting
      cases awaiting
  · exact h
  · exact of_none rfl
  · split
    · exact h
    · exact renoticeDeadline ‹_› n

end Notice.TimerAhead

/-! ## The lanes -/

theorem Lane.makeDue_times (l : Lane) (f : LaneFrame) : (l.makeDue f).state = l.state ∧ (l.makeDue f).timers = l.timers := by
  unfold Lane.makeDue
  split <;> exact ⟨rfl, rfl⟩

theorem Lane.dueProbe_times (l : Lane) (k : Fin 4) : (l.dueProbe k).state = l.state ∧ (l.dueProbe k).timers = l.timers := by
  unfold Lane.dueProbe
  split
  · exact ⟨rfl, rfl⟩
  · exact l.makeDue_times _

theorem Lane.dueCredit_times (l : Lane) (now : Nat) : (l.dueCredit now).state = l.state ∧
    (l.dueCredit now).timers = { l.timers with refresh := some (now + 50000) } := by
  unfold Lane.dueCredit
  dsimp only
  split
  · exact ⟨rfl, rfl⟩
  · exact Lane.makeDue_times _ _

namespace Lane.TimerLaw

variable {now : Nat} {l l' : Lane}

/-- A lane's timers depend on its state and its deadlines alone. -/
theorem same (h : l.TimerLaw now) (k : l'.state = l.state ∧ l'.timers = l.timers) : l'.TimerLaw now := by
  unfold Lane.TimerLaw Lane.inSession at h ⊢
  rw [k.1, k.2]
  exact h

theorem stopped (h : l'.timers = .stopped) (state : l'.state = .down ∨ l'.state = .failed) : l'.TimerLaw now := by
  unfold Lane.TimerLaw Lane.inSession
  rw [h]
  obtain state | state := state <;> rw [state] <;> simp [LaneTimers.stopped]

theorem dueCredit (h : l.TimerLaw now) (active : l.state = .active) : (l.dueCredit now).TimerLaw now := by
  obtain ⟨state, timers⟩ := l.dueCredit_times now
  obtain ⟨interval, window, silence, close, -, d1, d2, d3, d4, -⟩ := h
  unfold Lane.TimerLaw Lane.inSession at *
  rw [state, timers]
  exact ⟨interval, window, silence, close, by simp [active], d1, d2, d3, d4, by simp⟩

theorem testCreditAfterE (h : l.TimerLaw now) : (l.testCreditAfterE now).TimerLaw now := by
  unfold Lane.testCreditAfterE
  split
  · rename_i due
    exact h.dueCredit due.1
  · exact h

theorem goodFrame (h : l.TimerLaw now) : (l.goodFrame now).TimerLaw now := by
  rw [Lane.goodFrame_eq]
  obtain ⟨interval, window, silence, close, refresh, d1, d2, d3, d4, d5⟩ := h
  refine ⟨interval, window, ?_, close, refresh, d1, d2, ?_, d4, d5⟩
  · change (if l.inSession then _ else _ : Option Nat).isSome = true ↔ l.inSession = true
    split
    · simp [*]
    · exact silence
  · change ∀ d ∈ (if l.inSession then _ else _ : Option Nat), now ≤ d
    split
    · simp
    · exact d3

theorem frameSent (h : l.TimerLaw now) : (l.frameSent now).TimerLaw now := by
  unfold Lane.frameSent
  split
  · exact h
  · dsimp only
    split
    · rename_i f _ probing
      obtain ⟨-, window, silence, close, refresh, -, d2, d3, d4, d5⟩ := h
      exact ⟨fun _ => probing.2.1, window, silence, close, refresh, by simp, d2, d3, d4, d5⟩
    · exact h

theorem step (step : Lane.Step now l l') (h : l.TimerLaw now) : l'.TimerLaw now := by
  cases step with
  | enterProbing =>
    refine same (l := { l with state := .probing, awaited := 0, consecutiveBad := 0, pendingMissing := 0, timers :=
      { LaneTimers.stopped with probeWindow := some (now + 1000 * l.config.probeWindow) } }) ?_ (Lane.dueProbe_times _ _)
    simp [Lane.TimerLaw, Lane.inSession, LaneTimers.stopped]
  | good => exact h.goodFrame
  | activate => simp [Lane.TimerLaw, Lane.inSession, LaneTimers.stopped, Lane.dropWaiting]
  | probeOn k =>
    obtain ⟨-, window, silence, close, refresh, -, d2, d3, d4, d5⟩ := h
    refine same (l := { l with awaited := l.awaited + 1, timers := { l.timers with probeInterval := none } }) ?_
      (Lane.dueProbe_times _ _)
    exact ⟨by simp, window, silence, close, refresh, by simp, d2, d3, d4, d5⟩
  | restartProbe =>
    obtain ⟨-, window, silence, close, refresh, -, d2, d3, d4, d5⟩ := h
    refine same (l := { l with awaited := 0, timers := { l.timers with probeInterval := none } }) ?_ (Lane.dueProbe_times _ _)
    exact ⟨by simp, window, silence, close, refresh, by simp, d2, d3, d4, d5⟩
  | makeDue f => exact h.same (l.makeDue_times f)
  | dueCredit active => exact h.dueCredit active
  | enterClosing active =>
    obtain ⟨interval, window, silence, -, -, d1, d2, d3, -, -⟩ := h
    have session : l.inSession = true := by simp [Lane.inSession, active]
    refine same (l := { l with state := .closing, timers :=
      { l.timers with refresh := none, close := some (now + 1000 * l.config.closeTimeout) } }) ?_ (Lane.makeDue_times _ _)
    refine ⟨fun some => ?_, ?_, ?_, by simp, by simp, d1, d2, d3, by simp, by simp⟩
    · have probing := interval some
      rw [active] at probing
      cases probing
    · have idle := window.not.2 (by simp [active])
      simpa using idle
    · exact ⟨fun _ => by simp [Lane.inSession], fun _ => silence.2 session⟩
  | fail => exact stopped rfl (.inr rfl)
  | frameSent => exact h.frameSent
  | bad | count | advance | credit | receive | hunt | gather | config | stopWaiting => exact h

theorem drop (drop : Lane.Drop l l') (h : l.TimerLaw now) : l'.TimerLaw now := by
  cases drop with
  | down => exact stopped rfl (.inl rfl)
  | bad => exact h

theorem accepted (h : l.TimerLaw now) (covered x d r) : (l.accepted covered x d r now).TimerLaw now := by
  have gathered : (l.gathered covered now).TimerLaw now := by
    rw [Lane.gathered_fields]
    exact h
  refine testCreditAfterE ?_
  exact gathered

end Lane.TimerLaw

end Sys2Proof.Machine
end

section
/-! The time law after every change that a step is made of, after the passing of a microsecond, and after every step. -/
namespace Sys2Proof.Machine

namespace TimeParts

variable {s t : State} {q : QueueId}

/-- The law does not see the store, the link, the lines and what else has no deadline. -/
theorem of_eq (h : TimeParts s) (lanes : t.lanes = s.lanes) (slots : t.slots = s.slots) (queues : t.queues = s.queues)
    (levels : t.notice.levels = s.notice.levels) (renotice : t.notice.TimerAhead s.clock)
    (walk : t.classifier.walk = s.classifier.walk) (clock : t.clock = s.clock) (running : t.running = s.running) :
    TimeParts t := by
  have lane : ∀ n, t.lane n = s.lane n := fun n => by unfold State.lane; rw [lanes]
  have slot : ∀ i, t.slot i = s.slot i := fun i => by unfold State.slot; rw [slots]
  have queue : ∀ q, t.queue q = s.queue q := fun q => by unfold State.queue; rw [queues]
  obtain ⟨timers, leases, holds, -, began, still⟩ := h
  refine ⟨fun n => ?_, fun i => ?_, fun q => ?_, clock ▸ renotice, ?_, ?_⟩
  · rw [lane, clock]; exact timers n
  · rw [slot, clock]; exact leases i
  · rw [levels, queue, clock]; exact holds q
  · rw [walk, clock]; exact began
  · rw [running, clock]; exact still

/-- Nothing that has a deadline has changed. -/
theorem same (h : TimeParts s) (lanes : t.lanes = s.lanes) (slots : t.slots = s.slots) (queues : t.queues = s.queues)
    (notice : t.notice = s.notice) (walk : t.classifier.walk = s.classifier.walk) (clock : t.clock = s.clock)
    (running : t.running = s.running) : TimeParts t :=
  h.of_eq lanes slots queues (by rw [notice]) (by rw [notice]; exact h.renotice) walk clock running

theorem raise (h : TimeParts s) (k x) : TimeParts (s.raise k x) :=
  h.of_eq rfl rfl rfl (Notice.raise_levels _ _ _ _) (h.renotice.raise _ _ _) rfl rfl rfl

/-! ### The lanes -/

theorem setLane (h : TimeParts s) (n : LaneId) {l : Lane} (timers : l.TimerLaw s.clock) : TimeParts (s.setLane n l) := by
  refine ⟨fun m => ?_, h.leases, h.holds, h.renotice, h.walk, h.still⟩
  rw [State.lane_setLane]
  split
  · exact timers
  · exact h.lanes m

theorem work (h : TimeParts s) {c : Classifier} (walk : ∀ w ∈ c.walk, w.Fresh s.clock) : TimeParts { s with classifier := c } :=
  ⟨h.lanes, h.leases, h.holds, h.renotice, walk, h.still⟩

theorem beginWalk_fresh (now : Nat) (c : Classifier) : ∀ w ∈ (c.beginWalk now).walk, w.Fresh now := by
  unfold Classifier.beginWalk
  split
  · intro w none; cases none
  · intro w began
    cases began
    exact ⟨le_rfl, Nat.le_add_right _ _⟩

theorem join_fresh {now : Nat} {c : Classifier} (r : Record) (h : ∀ w ∈ c.walk, w.Fresh now) :
    ∀ w ∈ (c.join now r).walk, w.Fresh now := by
  unfold Classifier.join
  dsimp only
  split
  · exact h
  · exact beginWalk_fresh now _

theorem laneFlow (flow : LaneFlow s t) (h : TimeParts s) : TimeParts t := by
  cases flow with
  | step n l step => exact h.setLane n ((h.lanes n).step step)
  | drop n l drop => exact (h.setLane n ((h.lanes n).drop drop)).same rfl rfl rfl rfl rfl rfl rfl
  | recorded n covered rest crc inSession r =>
    have timers : ((s.lane n).recorded s.clock).TimerLaw s.clock :=
      Lane.TimerLaw.goodFrame (l := { s.lane n with assembly := none, receiver := .hunting }) (h.lanes n)
    exact (h.setLane n timers).work (join_fresh _ h.walk)
  | raise kind subject => exact h.raise kind subject
  | pointer n => exact h.same rfl rfl rfl rfl rfl rfl rfl

theorem storeLowTest (h : TimeParts s) : TimeParts s.storeLowTest := by
  unfold State.storeLowTest
  split
  · have disarmed : TimeParts { s with store := { s.store with armed := false } } := h.same rfl rfl rfl rfl rfl rfl rfl
    exact disarmed.raise _ _
  · exact h

theorem accepts {n : LaneId} {covered : List Byte} {x : RecordHeader} {d : Nat} (a : Accepts s n covered x d t) (h : TimeParts s) :
    TimeParts t := by
  rw [a.eq]
  have written := h.setLane n ((h.lanes n).accepted covered x d (Accepts.record s n x d))
  exact storeLowTest (written.same rfl rfl rfl rfl rfl rfl rfl)

theorem laneEffect (e : LaneEffect s t) (h : TimeParts s) : TimeParts t := by
  obtain chain | ⟨n, covered, x, d, accepted⟩ := e.chain
  · exact chain.keeps (fun _ _ => laneFlow) h
  · exact accepts accepted h

/-! ### The queues -/

/-- A queue's due state evaluated afresh, after a change of it or of its level (R139). -/
theorem evaluated (h : TimeParts s) {x : Queue} {l : Level} {n : Notice} (timer : n.TimerAhead s.clock)
    (levels : ∀ p : QueueId, n.levels[p] = if q = p then { l with due := isDue x.config x.queued l s.clock } else s.notice.levels[p]) :
    TimeParts { s.setQueue q x with notice := n } := by
  refine ⟨h.lanes, h.leases, fun p => ?_, timer, h.walk, h.still⟩
  have written : ({ s.setQueue q x with notice := n } : State).queue p = if q = p then x else s.queue p :=
    State.queue_setQueue s q p x
  dsimp only
  rw [levels p, written]
  split
  · exact Level.HoldAhead.of_isDue _ _ _ l
  · exact h.holds p

theorem setQueue (h : TimeParts s) {x : Queue} (config : x.config = (s.queue q).config) (list : x.list = (s.queue q).list) :
    TimeParts (s.setQueue q x) := by
  refine ⟨h.lanes, h.leases, fun p => ?_, h.renotice, h.walk, h.still⟩
  rw [State.queue_setQueue]
  split
  · rename_i same
    subst same
    rw [config, Queue.queued, list]
    exact h.holds q
  · exact h.holds p

theorem setList (h : TimeParts s) (list : List Record) : TimeParts (s.setList q list) :=
  h.evaluated (x := { s.queue q with list := list }) (h.renotice.follow _ _ _ _ _ _) fun p =>
    Notice.follow_level q p _ _ _ _ _ _

theorem setConfig (h : TimeParts s) (c : QueueConfig) :
    TimeParts ((s.setQueue q { s.queue q with config := c }).evalDue q) := by
  rw [State.evalDue_setQueue]
  refine h.evaluated (x := { s.queue q with config := c }) (l := s.notice.levels[q]) (h.renotice.evalDue _ _ _ _ _) fun p => ?_
  rw [Notice.evalDue_levels]
  exact vector_set_get _ _ _ _

theorem setSlot (h : TimeParts s) (i : SlotId) {x : Slot} (ahead : ∀ o ∈ x.occupant, ∀ d ∈ o.deadline, s.clock ≤ d) :
    TimeParts (s.setSlot i x) := by
  refine ⟨h.lanes, fun j => ?_, h.holds, h.renotice, h.walk, h.still⟩
  rw [State.slot_setSlot]
  split
  · exact ahead
  · exact h.leases j

theorem chargeDown (h : TimeParts s) : TimeParts (s.chargeDown q) := h.setQueue rfl rfl

theorem chargeUp (h : TimeParts s) : TimeParts (s.chargeUp q) := h.setQueue rfl rfl

theorem countQueue (h : TimeParts s) (f : QueueCounters → QueueCounters) : TimeParts (s.countQueue q f) := h.setQueue rfl rfl

theorem freeRecord (h : TimeParts s) (r : Record) : TimeParts (s.freeRecord r) := h.same rfl rfl rfl rfl rfl rfl rfl

theorem enqueue (h : TimeParts s) (spill : Bool) (r : Record) : TimeParts (s.enqueue q spill r) := by
  have numbered : TimeParts (s.setQueue q { s.queue q with admissionCounter := (s.queue q).admissionCounter + 1 }) :=
    h.setQueue rfl rfl
  unfold State.enqueue
  exact ((numbered.setList _).chargeUp).countQueue _

theorem evictHead (h : TimeParts s) (head : Record) (rest : List Record) : TimeParts (s.evictHead q head rest) :=
  countQueue (freeRecord (chargeDown (h.setList rest)) head) _

theorem leaseDeadline_ahead (c : QueueConfig) (now : Nat) : ∀ d ∈ leaseDeadline c now, now ≤ d := by
  intro d set
  unfold leaseDeadline at set
  split at set
  · cases set
  · cases set; exact Nat.le_add_right _ _

theorem queueFlow {a b : Handling} (flow : QueueFlow a b) (h : TimeParts a.state) : TimeParts b.state := by
  cases flow with
  | skip | spill => exact h
  | pull s H k q pulled rest => exact h.setList rest
  | unslot s H k i => exact h.setSlot i fun o none => by cases none
  | uncharge => exact h.chargeDown
  | free s H k r => exact h.freeRecord r
  | admission s H k r q spill => exact h.enqueue spill r
  | evict s H k r q spill head rest => exact (h.evictHead head rest).enqueue spill r
  | requeue => exact h.setList _
  | claim s H k r q i c =>
    refine h.setSlot i fun o claimed => ?_
    cases claimed
    exact leaseDeadline_ahead c s.clock
  | extend s H k i o c =>
    refine h.setSlot i fun o extended => ?_
    cases extended
    exact leaseDeadline_ahead c s.clock
  | config s H k q c => exact h.setConfig c
  | count s H k q f => exact h.countQueue f
  | countClassifier => exact h.same rfl rfl rfl rfl rfl rfl rfl
  | raise s H k kind subject => exact h.raise kind subject

theorem queueEffect (e : QueueEffect s t) (h : TimeParts s) : TimeParts t := by
  obtain ⟨k, -, chain⟩ := e.chain
  exact chain.keeps (P := fun a => TimeParts a.state) (fun _ _ => queueFlow) h

/-! ### The Notice Unit and the control link -/

/-- Levels set with the due state evaluated now (R139). -/
theorem setLevels (h : TimeParts s) {n : Notice} (timer : n.TimerAhead s.clock)
    (levels : ∀ q : QueueId, ∃ l : Level, n.levels[q] =
      { l with due := isDue (s.queue q).config (s.queue q).queued l s.clock }) : TimeParts { s with notice := n } := by
  refine ⟨h.lanes, h.leases, fun q => ?_, timer, h.walk, h.still⟩
  obtain ⟨l, level⟩ := levels q
  change n.levels[q].HoldAhead (s.queue q).config (s.queue q).queued s.clock
  rw [level]
  exact .of_isDue _ _ _ l

theorem noticeEffect (e : NoticeEffect s t) (h : TimeParts s) : TimeParts t := by
  cases e with
  | noticeAck body =>
    unfold noticeAckAct
    split
    · exact h
    · split
      · split
        · exact h.setLevels (.of_none rfl) fun q => ⟨_, eachQueue_get _ q⟩
        · exact h
      · exact h
  | noticeConfig body =>
    unfold noticeConfigAct
    split
    · exact h
    · rename_i enable interval watermark _
      have set : TimeParts { s with notice := { s.notice with enabled := enable, interval := interval } } :=
        h.of_eq rfl rfl rfl rfl h.renotice rfl rfl rfl
      have marked : ∀ {u : State}, TimeParts u → TimeParts (u.setWatermark watermark) := by
        intro u h
        unfold State.setWatermark
        dsimp only
        split
        · exact storeLowTest (h.same rfl rfl rfl rfl rfl rfl rfl)
        · exact h.same rfl rfl rfl rfl rfl rfl rfl
      exact (marked set).of_eq rfl rfl rfl (Notice.applyEnable_levels _ _ _) ((marked set).renotice.applyEnable _) rfl rfl rfl
  | renew => exact h.of_eq rfl rfl rfl rfl (.of_none rfl) rfl rfl rfl
  | hold q due =>
    refine h.evaluated (q := q) (x := s.queue q) (l := s.notice.levels[q]) (h.renotice.evalDue _ _ _ _ _) (fun p => ?_)
      |>.same rfl rfl ?_ rfl rfl rfl rfl
    · rw [Notice.evalDue_levels]
      exact vector_set_get _ _ _ _
    · exact (congrArg State.queues (State.setQueue_queue s q)).symm

theorem linkFlow (flow : LinkFlow s t) (h : TimeParts s) : TimeParts t := by
  cases flow with
  | link | count | listen | config => exact h.same rfl rfl rfl rfl rfl rfl rfl
  | raise kind subject => exact h.raise kind subject
  | syncNotice =>
    refine h.setLevels (Notice.TimerAhead.request (.of_none rfl) _) fun q => ?_
    rw [Notice.request_levels]
    exact ⟨_, eachQueue_get _ q⟩
  | beginNotice =>
    exact h.of_eq rfl rfl rfl rfl (Notice.TimerAhead.renoticeDeadline (n := { s.notice.began s.takeSnapshot s.clock with
      renotice := none }) rfl s.notice) rfl rfl rfl

/-! ### Resets and the end of a walk -/

theorem powerOn (pending lines running rate) : TimeParts (.powerOn pending lines running rate) := by
  refine ⟨fun n => ?_, fun i => ?_, fun q => ?_, .of_none rfl, (fun w none => by cases none), fun _ => rfl⟩
  · rw [State.lane_powerOn]
    exact .stopped rfl (.inl rfl)
  · rw [State.slot_powerOn]
    exact fun o none => by cases none
  · have zero : (Vector.replicate 8 Level.zero)[q] = .zero := Vector.getElem_replicate q.isLt
    exact .of_since_none (congrArg Level.since zero)

theorem storeReset (h : TimeParts s) : TimeParts s.storeReset := by
  refine s.storeReset_chain.keeps (fun _ _ => laneFlow)
    ⟨fun n => ?_, fun i => ?_, fun q => ?_, h.renotice, (fun w none => by cases none), h.still⟩
  · rw [show s.storeResetBlocks.lane n = (s.lane n).storeReset from mapVec_get Lane.storeReset s.lanes n]
    unfold Lane.storeReset
    split <;> exact h.lanes n
  · rw [show s.storeResetBlocks.slot i = (s.slot i).storeReset from mapVec_get Slot.storeReset s.slots i]
    exact fun o none => by cases none
  · have zero : (Vector.replicate 8 Level.zero)[q] = .zero := Vector.getElem_replicate q.isLt
    exact .of_since_none (congrArg Level.since zero)

theorem clearGroup (g : CounterGroup) (h : TimeParts s) : TimeParts (s.clearGroup g) := by
  cases g with
  | lane n => exact h.setLane n (h.lanes n)
  | queue q => exact h.countQueue fun _ => .zero
  | rules | link => exact h.same rfl rfl rfl rfl rfl rfl rfl

theorem endWalk (w : Walk) (h : TimeParts s) : TimeParts (s.endWalk w) := by
  have decided : TimeParts (s.decided w) := h.work fun w none => by cases none
  have handed := State.handOn_law (law := fun a => TimeParts a.state) (fun _ _ => queueFlow) decided
  have taken := State.takeCommit_keeps (fun _ _ => linkFlow)
    (fun _ _ _ work h => h.same rfl rfl rfl rfl work.walk rfl rfl) handed
  exact taken.work (beginWalk_fresh _ _)

theorem effect (e : Effect s t) (h : TimeParts s) : TimeParts t :=
  e.keeps_line (fun _ _ => linkFlow) (fun _ => powerOn _ _ _ _) (fun _ _ _ work h => h.same rfl rfl rfl rfl work.walk rfl rfl)
    (fun _ _ => laneEffect) (fun _ _ => queueEffect) (fun _ _ => noticeEffect) (fun _ => storeReset) (fun _ => clearGroup)
    (fun w _ => endWalk w) h

/-! ### The passing of a microsecond -/

/-- A timer that runs in a state alone, and is not due there, has its deadline ahead. -/
theorem ahead {d : Option Nat} {now : Nat} {state : Prop} (runs : d.isSome = true → state)
    (quiet : ¬(state ∧ expired d now = true)) : ∀ x ∈ d, now + 1 ≤ x := by
  intro x some
  cases some
  have notYet : ¬expired (.some x) now = true := fun due => quiet ⟨runs rfl, due⟩
  simpa [expired] using notYet

/-- No timer of a lane has reached its deadline when none is due (R22). -/
theorem lane_elapses {n : LaneId} (quiet : s.laneDue n = none) (h : (s.lane n).TimerLaw s.clock) :
    (s.lane n).TimerLaw (s.clock + 1) := by
  obtain ⟨interval, window, silence, close, refresh, -⟩ := h
  unfold State.laneDue at quiet
  dsimp only at quiet
  split at quiet
  · cases quiet
  rename_i notInterval
  split at quiet
  · cases quiet
  rename_i notWindow
  split at quiet
  · cases quiet
  rename_i notSilence
  split at quiet
  · cases quiet
  rename_i notClose
  split at quiet
  · cases quiet
  rename_i notRefresh
  exact ⟨interval, window, silence, close, refresh, ahead interval notInterval, ahead window.1 notWindow,
    ahead silence.1 notSilence, ahead close.1 notClose, ahead refresh.1 notRefresh⟩

/-- The part's own events are looked for one after another (log 3): when none is found, none is due. -/
theorem none_due (running : s.running = true) (quiet : s.ownEvent = none) : s.walkDue = none ∧ (∀ n, s.laneDue n = none) ∧
    s.leaseDue = none ∧ s.holdDue = none ∧ s.renoticeDue = none ∧ s.gapDue = none ∧ ∀ n, s.laneGapDue n = none := by
  unfold State.ownEvent at quiet
  rw [if_pos running] at quiet
  simp only [Option.orElse_eq_orElse, Option.orElse_eq_or, Option.or_eq_none_iff] at quiet
  obtain ⟨-, -, -, walk, lane0, lane1, lane2, lane3, lease, hold, renotice, gap, gap0, gap1, gap2, gap3⟩ := quiet
  have lanes : ∀ {P : LaneId → Prop}, P 0 → P 1 → P 2 → P 3 → ∀ n, P n := fun {P} h0 h1 h2 h3 n => by
    fin_cases n <;> assumption
  exact ⟨walk, lanes lane0 lane1 lane2 lane3, lease, hold, renotice, gap, lanes gap0 gap1 gap2 gap3⟩

/-- A queue becomes due when its hold expiry is reached (R139). -/
theorem due_at_hold {c : QueueConfig} {count now since : Nat} {l : Level} (enabled : c.noticeHold ≠ 0)
    (above : l.reported < count) (unreported : l.since = some since) (reached : since + 1000 * c.noticeHold ≤ now) :
    expired (holdDeadline c l) now = true ∧ isDue c count l now = true := by
  simp [holdDeadline, isDue, expired, enabled, above, unreported, reached]

/-- When no event of the part is due, no deadline has been reached. -/
theorem tick (quiet : s.ownEvent = none) (h : TimeParts s) : TimeParts s.tick := by
  cases running : s.running with
  | false =>
    have stands : s.tick.clock = s.clock := by unfold State.tick; rw [running]; rfl
    exact h.same rfl rfl rfl rfl rfl stands rfl
  | true =>
    have passes : s.tick.clock = s.clock + 1 := by unfold State.tick; rw [running]; rfl
    obtain ⟨walk, lanes, lease, hold, renotice, -, -⟩ := none_due running quiet
    refine ⟨fun n => ?_, fun i o occupied => ?_, fun q enabled above notDue t since => ?_, ⟨h.renotice.1, ?_⟩, fun w inFlight => ?_,
      fun low => by rw [show s.tick.running = s.running from rfl, running] at low; cases low⟩ <;> rw [passes]
    · exact lane_elapses (lanes n) (h.lanes n)
    · have notYet := List.find?_eq_none.1 (Option.map_eq_none_iff.1 lease) i (List.mem_finRange i)
      rw [show (s.slot i).occupant = some o from occupied] at notYet
      exact ahead (fun _ => trivial) fun due => notYet due.2
    · have notYet := List.find?_eq_none.1 (Option.map_eq_none_iff.1 hold) q (mem_allQueues q)
      have since : s.notice.levels[q].since = some t := since
      have above : s.notice.levels[q].reported < (s.queue q).queued := above
      have notDue : s.notice.levels[q].due = false := notDue
      have enabled : (s.queue q).config.noticeHold ≠ 0 := enabled
      by_contra reached
      have reached : t + 1000 * (s.queue q).config.noticeHold ≤ s.clock := by
        have : ¬s.clock + 1 ≤ t + 1000 * (s.queue q).config.noticeHold := reached
        omega
      obtain ⟨expires, due⟩ := due_at_hold enabled above since reached
      rw [expires, due, notDue] at notYet
      exact notYet rfl
    · unfold State.renoticeDue at renotice
      split at renotice
      · cases renotice
      · exact ahead h.renotice.1 ‹_›
    · have fresh := h.walk w inFlight
      unfold State.walkDue at walk
      rw [show s.classifier.walk = some w from inFlight] at walk
      dsimp only at walk
      split at walk
      · cases walk
      · unfold Walk.Fresh at fresh ⊢
        omega

theorem takes (taken : Takes s t) (h : TimeParts s) : TimeParts t := by
  cases taken with
  | control => exact h.same rfl rfl rfl rfl rfl rfl rfl
  | lane n k line =>
    have filled := h.setLane n (l := ({ s.lane n with reception := k } : Lane).storePayload) (h.lanes n)
    exact filled.same rfl rfl rfl rfl rfl rfl rfl

theorem step (h : TimeParts s) (taken : Machine.step s = .next t) : TimeParts t :=
  step_keeps (fun _ _ h => h.same rfl rfl rfl rfl rfl rfl rfl) (fun _ _ h taken => takes taken h)
    (fun _ _ _ h => exec_keeps powerOn fun _ e => effect e h) (fun _ h quiet => tick quiet h) h taken

end TimeParts

/-- Settles O57: every deadline is set ahead, and a microsecond passes only when none has been reached. -/
theorem stepKeepsTimeLaw : Obligations.StepKeepsTimeLaw := fun s t h taken =>
  (timeLaw_iff t).2 (((timeLaw_iff s).1 h).step taken)

end Sys2Proof.Machine
end

section
/-! The range law: counters saturate, and what the host and the lanes can set stays in its range. -/
namespace Sys2Proof.Machine

/-- A lane's counters, its parameters and its two counts lie in their ranges (R24, R29, R52, R68). -/
structure Lane.Bounded (l : Lane) : Prop where
  counters : l.counters.InRange
  config : l.config.inRange = true
  missing : l.pendingMissing ≤ 65535
  bad : l.consecutiveBad ≤ 255

/-- A queue's counters and its parameters lie in their ranges (R95, R111). -/
structure Queue.Bounded (q : QueueId) (x : Queue) : Prop where
  counters : x.counters.InRange
  config : x.config.inRange = true
  spill : x.config.spillQueue ≠ some q

/-- The Classifier's counters lie in their ranges (R91). -/
structure Classifier.Bounded (c : Classifier) : Prop where
  matched : ∀ v ∈ c.matches_.toList, v ≤ 4294967295
  counters : c.counters.InRange

/-- The link's counters and its gap timeout lie in their ranges (R157, R168). -/
structure Link.Bounded (k : Link) : Prop where
  counters : k.counters.InRange
  least : 1 ≤ k.gapTimeout
  most : k.gapTimeout ≤ 255

/-- The renotice interval lies in its range (R148). -/
def Notice.Bounded (n : Notice) : Prop := n.interval = 0 ∨ (10 ≤ n.interval ∧ n.interval ≤ 60000)

/-- The parts of the range law, each for the block it speaks of. -/
structure RangeParts (s : State) : Prop where
  lanes : ∀ n, (s.lane n).Bounded
  queues : ∀ q, (s.queue q).Bounded q
  classifier : s.classifier.Bounded
  link : s.link.Bounded
  watermark : s.store.watermark ≤ 1023
  notice : s.notice.Bounded

theorem rangeLaw_iff (s : State) : RangeLaw s ↔ RangeParts s := by
  constructor
  · rintro ⟨values, lanes, queues, watermark, interval, least, most⟩
    refine ⟨fun n => ?_, fun q => ?_, ?_, ⟨values .link, least, most⟩, watermark, interval⟩
    · obtain ⟨config, missing, bad⟩ := lanes n
      exact ⟨values (.lane n), config, missing, bad⟩
    · obtain ⟨config, spill⟩ := queues q
      exact ⟨values (.queue q), config, spill⟩
    · exact ⟨fun v mem => values .rules v (List.mem_append_left _ mem),
        fun v mem => values .rules v (List.mem_append_right _ mem)⟩
  · rintro ⟨lanes, queues, ⟨matched, counters⟩, ⟨link, least, most⟩, watermark, interval⟩
    refine ⟨fun g => ?_, fun n => ⟨(lanes n).config, (lanes n).missing, (lanes n).bad⟩,
      fun q => ⟨(queues q).config, (queues q).spill⟩, watermark, interval, least, most⟩
    cases g with
    | lane n => exact (lanes n).counters
    | queue q => exact (queues q).counters
    | rules => exact fun v mem => (List.mem_append.1 mem).elim (matched v) (counters v)
    | link => exact link

/-! ## The lanes -/

namespace Lane.Bounded

variable {now : Nat} {l l' : Lane}

/-- The four fields are as they were. -/
def Same (l l' : Lane) : Prop :=
  l'.counters = l.counters ∧ l'.config = l.config ∧ l'.pendingMissing = l.pendingMissing ∧ l'.consecutiveBad = l.consecutiveBad

theorem same (h : l.Bounded) (k : Same l l') : l'.Bounded := by
  obtain ⟨counters, config, missing, bad⟩ := k
  exact ⟨counters ▸ h.counters, config ▸ h.config, missing ▸ h.missing, bad ▸ h.bad⟩

theorem makeDue_same (l : Lane) (f : LaneFrame) : Same l (l.makeDue f) := by
  unfold Lane.makeDue
  split <;> exact ⟨rfl, rfl, rfl, rfl⟩

theorem dueProbe_same (l : Lane) (k : Fin 4) : Same l (l.dueProbe k) := by
  unfold Lane.dueProbe
  split
  · exact ⟨rfl, rfl, rfl, rfl⟩
  · exact makeDue_same l _

theorem dueCredit_same (l : Lane) (now : Nat) : Same l (l.dueCredit now) := by
  unfold Lane.dueCredit
  dsimp only
  split
  · exact ⟨rfl, rfl, rfl, rfl⟩
  · exact makeDue_same { l with lastSent := l.limit, timers := { l.timers with refresh := some (now + 50000) } } _

theorem frameSent_same (l : Lane) (now : Nat) : Same l (l.frameSent now) := by
  unfold Lane.frameSent
  split
  · exact ⟨rfl, rfl, rfl, rfl⟩
  · dsimp only
    split <;> exact ⟨rfl, rfl, rfl, rfl⟩

theorem goodFrame (h : l.Bounded) : (l.goodFrame now).Bounded := by
  rw [Lane.goodFrame_eq]
  exact ⟨h.counters, h.config, h.missing, Nat.zero_le _⟩

theorem count (h : l.Bounded) {f : LaneCounters → LaneCounters} (range : ∀ c : LaneCounters, c.InRange → (f c).InRange) :
    (l.count f).Bounded := ⟨range _ h.counters, h.config, h.missing, h.bad⟩

theorem step (step : Lane.Step now l l') (h : l.Bounded) : l'.Bounded := by
  obtain ⟨counters, config, missing, bad⟩ := h
  cases step with
  | enterProbing =>
    refine same (l := { l with consecutiveBad := 0, pendingMissing := 0 }) ?_ (dueProbe_same _ 0)
    exact ⟨counters, config, Nat.zero_le _, Nat.zero_le _⟩
  | bad => exact ⟨by simp_all, config, missing, Nat.min_le_right _ _⟩
  | good => exact goodFrame ⟨counters, config, missing, bad⟩
  | count f range => exact ⟨range _ counters, config, missing, bad⟩
  | activate => exact ⟨counters, config, Nat.zero_le _, Nat.zero_le _⟩
  | probeOn k => exact same (l := l) ⟨counters, config, missing, bad⟩ (dueProbe_same _ k)
  | restartProbe =>
    refine same (l := { l with counters := { l.counters with probeRetries := bump l.counters.probeRetries } }) ?_
      (dueProbe_same _ 0)
    exact ⟨by simp_all, config, missing, bad⟩
  | makeDue f => exact same (l := l) ⟨counters, config, missing, bad⟩ (makeDue_same l f)
  | advance next d => exact ⟨by simp_all, config, addMissing_le _ _, bad⟩
  | dueCredit => exact same (l := l) ⟨counters, config, missing, bad⟩ (dueCredit_same l now)
  | credit | receive | hunt | gather | stopWaiting => exact ⟨counters, config, missing, bad⟩
  | config c range => exact ⟨counters, range, missing, bad⟩
  | enterClosing => exact same (l := l) ⟨counters, config, missing, bad⟩ (makeDue_same _ _)
  | fail => exact ⟨counters, config, Nat.zero_le _, bad⟩
  | frameSent => exact same (l := l) ⟨counters, config, missing, bad⟩ (frameSent_same l now)

theorem drop (drop : Lane.Drop l l') (h : l.Bounded) : l'.Bounded := by
  obtain ⟨counters, config, missing, bad⟩ := h
  cases drop with
  | down => exact ⟨counters, config, Nat.zero_le _, bad⟩
  | bad => exact ⟨by simp_all, config, addMissing_le _ _, bad⟩

theorem recorded (h : l.Bounded) : (l.recorded now).Bounded :=
  count (goodFrame (l := { l with assembly := none, receiver := .hunting }) ⟨h.counters, h.config, h.missing, h.bad⟩)
    fun c hc => by simp_all

theorem accepted (h : l.Bounded) (covered x d r) : (l.accepted covered x d r now).Bounded := by
  have fields := l.gathered_fields covered now
  obtain ⟨counters, config, -, bad⟩ := h
  have moved : Lane.Bounded { l with
      pendingMissing := 0, counters := { l.counters with missingTotal := bumpBy d l.counters.missingTotal } } :=
    ⟨by simp_all, config, Nat.zero_le _, bad⟩
  unfold Lane.accepted Lane.testCreditAfterE
  rw [fields]
  split
  · exact moved.same (dueCredit_same _ now)
  · exact moved.same ⟨rfl, rfl, rfl, rfl⟩

end Lane.Bounded

/-! ## The Notice Unit's interval -/

theorem Notice.request_interval (b : Bool) (n : Notice) : (n.request b).interval = n.interval := by
  unfold Notice.request; split <;> rfl

theorem Notice.raise_interval (n : Notice) (k x b) : (n.raise k x b).interval = n.interval := by rw [Notice.raise_eq]

theorem Notice.evalDue_interval (n : Notice) (q c k now b) : (n.evalDue q c k now b).interval = n.interval := by
  unfold Notice.evalDue
  dsimp only
  split
  · unfold Notice.becameDue
    split
    · exact Notice.request_interval _ _
    · rfl
    · split <;> rfl
  · rfl

theorem Notice.follow_interval (n : Notice) (q c o k now b) : (n.follow q c o k now b).interval = n.interval :=
  Notice.evalDue_interval _ _ _ _ _ _

theorem LaneSide.interval {s t : State} (h : LaneSide s t) : t.notice.interval = s.notice.interval :=
  h.notice (fun n => n.interval = s.notice.interval) (fun n k x same => (n.raise_interval k x _).trans same) rfl

theorem QueueSide.interval {s t : State} (h : QueueSide s t) : t.notice.interval = s.notice.interval :=
  h.notice (fun n => n.interval = s.notice.interval) (fun n k x same => (n.raise_interval k x _).trans same)
    (fun n q c o k same => (n.follow_interval q c o k _ _).trans same)
    (fun n q c k same => (n.evalDue_interval q c k _ _).trans same) rfl

end Sys2Proof.Machine
end

section
/-! The range law after every change that a step is made of, and after every step. -/
namespace Sys2Proof.Machine

theorem Classifier.join_matches (c : Classifier) (now : Nat) (r : Record) :
    (c.join now r).matches_ = c.matches_ ∧ (c.join now r).counters = c.counters := by
  unfold Classifier.join Classifier.beginWalk
  dsimp only
  split
  · exact ⟨rfl, rfl⟩
  · split <;> exact ⟨rfl, rfl⟩

theorem Classifier.beginWalk_matches (c : Classifier) (now : Nat) :
    (c.beginWalk now).matches_ = c.matches_ ∧ (c.beginWalk now).counters = c.counters := by
  unfold Classifier.beginWalk
  split <;> exact ⟨rfl, rfl⟩

namespace Classifier.Bounded

variable {c : Classifier}

theorem same {c' : Classifier} (h : c.Bounded) (same : c'.matches_ = c.matches_ ∧ c'.counters = c.counters) : c'.Bounded := by
  obtain ⟨matched, counters⟩ := same
  exact ⟨matched ▸ h.matched, counters ▸ h.counters⟩

/-- The counters of the chains that match stay in their range, and so do the others (R91). -/
theorem countDecision (rule : Option Nat) (h : c.Bounded) : (c.countDecision rule).Bounded := by
  obtain ⟨matched, counters⟩ := h
  cases rule with
  | none => exact ⟨matched, by simp_all [Classifier.countDecision]⟩
  | some i =>
    refine ⟨fun v mem => ?_, by simp_all [Classifier.countDecision]⟩
    obtain ⟨j, size, rfl⟩ := Vector.getElem_of_mem (Vector.mem_toList_iff.1 mem)
    have written := Vector.getElem_setIfInBounds (xs := c.matches_) (i := i) (x := bump (c.matches_.getD i 0)) size
    change (c.matches_.setIfInBounds i (bump (c.matches_.getD i 0)))[j] ≤ _
    rw [written]
    split
    · exact bump_le _
    · exact matched _ (Vector.mem_toList_iff.2 (Vector.getElem_mem size))

theorem storeReset (h : c.Bounded) : c.storeReset.Bounded := by
  obtain ⟨matched, counters⟩ := h
  refine ⟨matched, ?_⟩
  unfold Classifier.storeReset
  dsimp only
  split
  · simp_all
  · exact counters

end Classifier.Bounded

theorem Queue.Bounded.same {q : QueueId} {x y : Queue} (h : x.Bounded q) (counters : y.counters = x.counters)
    (config : y.config = x.config) : y.Bounded q :=
  ⟨counters ▸ h.counters, config ▸ h.config, config ▸ h.spill⟩

theorem Link.Bounded.same {k k' : Link} (h : k.Bounded) (counters : k'.counters = k.counters)
    (gap : k'.gapTimeout = k.gapTimeout) : k'.Bounded :=
  ⟨counters ▸ h.counters, gap ▸ h.least, gap ▸ h.most⟩

theorem State.allocate_ranges (s : State) (r : Record) : (s.allocate r).store.watermark = s.store.watermark ∧
    (s.allocate r).notice.interval = s.notice.interval ∧ (s.allocate r).link = s.link := by
  unfold State.allocate State.storeLowTest
  split
  · exact ⟨rfl, Notice.raise_interval _ _ _ _, rfl⟩
  · exact ⟨rfl, rfl, rfl⟩

theorem State.setWatermark_watermark (s : State) (w : Nat) : (s.setWatermark w).store.watermark = w := by
  unfold State.setWatermark State.storeLowTest
  dsimp only
  split
  · split <;> rfl
  · rfl

theorem Notice.applyEnable_interval (now : Nat) (synced : Bool) (n : Notice) :
    (n.applyEnable now synced).interval = n.interval := by
  unfold Notice.applyEnable
  split
  · rfl
  · exact Notice.request_interval _ _
  · rfl
  · rfl
  · rfl
  · split <;> rfl

namespace RangeParts

variable {s t : State} {q : QueueId}

/-- The law does not see the records and the timers. -/
theorem of_eq (h : RangeParts s) (lanes : t.lanes = s.lanes) (queues : t.queues = s.queues)
    (classifier : t.classifier.Bounded) (link : t.link.Bounded) (watermark : t.store.watermark = s.store.watermark)
    (interval : t.notice.interval = s.notice.interval) : RangeParts t := by
  have lane : ∀ n, t.lane n = s.lane n := fun n => by unfold State.lane; rw [lanes]
  have queue : ∀ q, t.queue q = s.queue q := fun q => by unfold State.queue; rw [queues]
  refine ⟨fun n => ?_, fun q => ?_, classifier, link, watermark ▸ h.watermark, ?_⟩
  · rw [lane]; exact h.lanes n
  · rw [queue]; exact h.queues q
  · unfold Notice.Bounded; rw [interval]; exact h.notice

/-- The lanes, the queues, the watermark and the interval are as they were, and so is what is counted. -/
theorem same (h : RangeParts s) (lanes : t.lanes = s.lanes) (queues : t.queues = s.queues)
    (classifier : t.classifier.matches_ = s.classifier.matches_ ∧ t.classifier.counters = s.classifier.counters)
    (link : t.link.counters = s.link.counters ∧ t.link.gapTimeout = s.link.gapTimeout)
    (watermark : t.store.watermark = s.store.watermark) (interval : t.notice.interval = s.notice.interval) : RangeParts t :=
  h.of_eq lanes queues (h.classifier.same classifier) (h.link.same link.1 link.2) watermark interval

theorem raise (h : RangeParts s) (k x) : RangeParts (s.raise k x) :=
  h.same rfl rfl ⟨rfl, rfl⟩ ⟨rfl, rfl⟩ rfl (Notice.raise_interval _ _ _ _)

/-! ### The lanes -/

theorem setLane (h : RangeParts s) (n : LaneId) {l : Lane} (bounded : l.Bounded) : RangeParts (s.setLane n l) := by
  refine ⟨fun m => ?_, h.queues, h.classifier, h.link, h.watermark, h.notice⟩
  rw [State.lane_setLane]
  split
  · exact bounded
  · exact h.lanes m

theorem work (h : RangeParts s) {c : Classifier} (bounded : c.Bounded) : RangeParts { s with classifier := c } :=
  ⟨h.lanes, h.queues, bounded, h.link, h.watermark, h.notice⟩

theorem laneFlow (flow : LaneFlow s t) (h : RangeParts s) : RangeParts t := by
  cases flow with
  | step n l step => exact h.setLane n ((h.lanes n).step step)
  | drop n l drop =>
    have written := h.setLane n ((h.lanes n).drop drop)
    refine written.same rfl rfl ⟨rfl, rfl⟩ ⟨rfl, rfl⟩ ?_ rfl
    cases (s.lane n).assembly <;> rfl
  | recorded n covered rest crc inSession r =>
    exact (h.setLane n (h.lanes n).recorded).work (h.classifier.same (Classifier.join_matches _ _ _))
  | raise kind subject => exact h.raise kind subject
  | pointer n => exact h.same rfl rfl ⟨rfl, rfl⟩ ⟨rfl, rfl⟩ rfl rfl

theorem accepts {n : LaneId} {covered : List Byte} {x : RecordHeader} {d : Nat} (a : Accepts s n covered x d t)
    (h : RangeParts s) : RangeParts t := by
  rw [a.eq]
  have written := h.setLane n ((h.lanes n).accepted covered x d (Accepts.record s n x d) (now := s.clock))
  obtain ⟨lanes, classifier, queues, -⟩ := State.allocate_lanes (Accepts.record s n x d) (s.setLane n
    ((s.lane n).accepted covered x d (Accepts.record s n x d) s.clock))
  obtain ⟨watermark, interval, link⟩ := State.allocate_ranges (s.setLane n
    ((s.lane n).accepted covered x d (Accepts.record s n x d) s.clock)) (Accepts.record s n x d)
  exact written.same lanes queues (by rw [classifier]; exact ⟨rfl, rfl⟩) (by rw [link]; exact ⟨rfl, rfl⟩) watermark interval

theorem laneEffect (e : LaneEffect s t) (h : RangeParts s) : RangeParts t := by
  obtain chain | ⟨n, covered, x, d, accepted⟩ := e.chain
  · exact chain.keeps (fun _ _ => laneFlow) h
  · exact accepts accepted h

/-! ### The queues -/

theorem setQueue (h : RangeParts s) {x : Queue} (bounded : x.Bounded q) : RangeParts (s.setQueue q x) := by
  refine ⟨h.lanes, fun p => ?_, h.classifier, h.link, h.watermark, h.notice⟩
  rw [State.queue_setQueue]
  split
  · rename_i same
    exact same ▸ bounded
  · exact h.queues p

theorem setList (h : RangeParts s) (list : List Record) : RangeParts (s.setList q list) := by
  have written : RangeParts (s.setQueue q { s.queue q with list := list }) := h.setQueue ((h.queues q).same rfl rfl)
  exact written.same rfl rfl ⟨rfl, rfl⟩ ⟨rfl, rfl⟩ rfl (Notice.follow_interval _ _ _ _ _ _ _)

theorem evalDue (h : RangeParts s) : RangeParts (s.evalDue q) :=
  h.same rfl rfl ⟨rfl, rfl⟩ ⟨rfl, rfl⟩ rfl (Notice.evalDue_interval _ _ _ _ _ _)

theorem charge (h : RangeParts s) (c : Nat) : RangeParts (s.setCharge q c) := h.setQueue ((h.queues q).same rfl rfl)

theorem countQueue (h : RangeParts s) {f : QueueCounters → QueueCounters}
    (range : ∀ c : QueueCounters, c.InRange → (f c).InRange) : RangeParts (s.countQueue q f) :=
  h.setQueue ⟨range _ (h.queues q).counters, (h.queues q).config, (h.queues q).spill⟩

theorem freeRecord (h : RangeParts s) (r : Record) : RangeParts (s.freeRecord r) :=
  h.same rfl rfl ⟨rfl, rfl⟩ ⟨rfl, rfl⟩ rfl rfl

theorem enqueue (h : RangeParts s) (spill : Bool) (r : Record) : RangeParts (s.enqueue q spill r) := by
  have numbered : RangeParts (s.setQueue q { s.queue q with admissionCounter := (s.queue q).admissionCounter + 1 }) :=
    h.setQueue ((h.queues q).same rfl rfl)
  unfold State.enqueue
  exact ((numbered.setList _).charge _).countQueue fun c hc => by cases spill <;> simp_all

theorem evictHead (h : RangeParts s) (head : Record) (rest : List Record) : RangeParts (s.evictHead q head rest) :=
  countQueue (freeRecord ((h.setList rest).charge _) head) fun c hc => by simp_all

theorem queueFlow {a b : Handling} (flow : QueueFlow a b) (h : RangeParts a.state) : RangeParts b.state := by
  cases flow with
  | skip | spill => exact h
  | pull s H k q pulled rest => exact h.setList rest
  | unslot | claim | extend => exact h.same rfl rfl ⟨rfl, rfl⟩ ⟨rfl, rfl⟩ rfl rfl
  | uncharge => exact h.charge _
  | free s H k r => exact h.freeRecord r
  | admission s H k r q spill => exact h.enqueue spill r
  | evict s H k r q spill head rest => exact (h.evictHead head rest).enqueue spill r
  | requeue => exact h.setList _
  | config s H k q c range spill =>
    have set : RangeParts (s.setQueue q { s.queue q with config := c }) := h.setQueue ⟨(h.queues q).counters, range, spill⟩
    exact set.evalDue
  | count s H k q f range => exact h.countQueue range
  | countClassifier s H k f range => exact h.work ⟨h.classifier.matched, range _ h.classifier.counters⟩
  | raise s H k kind subject => exact h.raise kind subject

theorem queueEffect (e : QueueEffect s t) (h : RangeParts s) : RangeParts t := by
  obtain ⟨k, -, chain⟩ := e.chain
  exact chain.keeps (P := fun a => RangeParts a.state) (fun _ _ => queueFlow) h

/-! ### The Notice Unit and the control link -/

/-- The enable value, the interval and the watermark of a NOTICE_CONFIG set (R148). -/
theorem marked (h : RangeParts s) {enable : Bool} {interval w : Nat} (range : interval = 0 ∨ (10 ≤ interval ∧ interval ≤ 60000))
    (most : w ≤ 1023) :
    RangeParts (({ s with notice := { s.notice with enabled := enable, interval := interval } } : State).setWatermark w) := by
  set u : State := { s with notice := { s.notice with enabled := enable, interval := interval } }
  have side : LaneSide u (u.setWatermark w) := .setWatermark (.refl u)
  have places : (u.setWatermark w).lanes = u.lanes ∧ (u.setWatermark w).classifier = u.classifier := by
    unfold State.setWatermark State.storeLowTest
    dsimp only
    split
    · split <;> exact ⟨rfl, rfl⟩
    · exact ⟨rfl, rfl⟩
  have lane : ∀ n, (u.setWatermark w).lane n = s.lane n := fun n => by unfold State.lane; rw [places.1]
  have queue : ∀ q, (u.setWatermark w).queue q = s.queue q := fun q => by unfold State.queue; rw [side.queues]
  refine ⟨fun n => ?_, fun q => ?_, ?_, ?_, ?_, ?_⟩
  · rw [lane]; exact h.lanes n
  · rw [queue]; exact h.queues q
  · rw [places.2]; exact h.classifier
  · rw [side.link]; exact h.link
  · rw [State.setWatermark_watermark]; exact most
  · unfold Notice.Bounded; rw [side.interval]; exact range

theorem noticeEffect (e : NoticeEffect s t) (h : RangeParts s) : RangeParts t := by
  cases e with
  | noticeAck body =>
    unfold noticeAckAct
    split
    · exact h
    · split
      · split
        · exact h.same rfl rfl ⟨rfl, rfl⟩ ⟨rfl, rfl⟩ rfl rfl
        · exact h
      · exact h
  | noticeConfig body =>
    unfold noticeConfigAct
    split
    · exact h
    · rename_i enable interval watermark arg
      exact (h.marked (noticeConfigArg_range arg).1 (noticeConfigArg_range arg).2).same rfl rfl ⟨rfl, rfl⟩ ⟨rfl, rfl⟩ rfl
        (Notice.applyEnable_interval _ _ _)
  | renew => exact h.same rfl rfl ⟨rfl, rfl⟩ ⟨rfl, rfl⟩ rfl rfl
  | hold => exact h.evalDue

theorem linkFlow (flow : LinkFlow s t) (h : RangeParts s) : RangeParts t := by
  cases flow with
  | link k same => exact h.same rfl rfl ⟨rfl, rfl⟩ ⟨same.counters, same.gapTimeout⟩ rfl rfl
  | count f range => exact h.of_eq rfl rfl h.classifier ⟨range _ h.link.counters, h.link.least, h.link.most⟩ rfl rfl
  | listen => exact h.same rfl rfl ⟨rfl, rfl⟩ ⟨rfl, rfl⟩ rfl rfl
  | config mode gap least most => exact h.of_eq rfl rfl h.classifier ⟨h.link.counters, least, most⟩ rfl rfl
  | raise kind subject => exact h.raise kind subject
  | syncNotice => exact h.same rfl rfl ⟨rfl, rfl⟩ ⟨rfl, rfl⟩ rfl (Notice.request_interval _ _)
  | beginNotice =>
    have counts : ∀ c : LinkCounters, c.InRange → ({ c with noticesSent := bump c.noticesSent } : LinkCounters).InRange :=
      fun c hc => by simp_all
    exact h.of_eq rfl rfl h.classifier ⟨counts _ h.link.counters, h.link.least, h.link.most⟩ rfl rfl

/-! ### Resets and the end of a walk -/

theorem lane_powerOn : Lane.powerOn.Bounded :=
  ⟨by simp [Lane.powerOn, LaneCounters.zero], by decide, by decide, by decide⟩

theorem queue_powerOn (q : QueueId) (first : Bool) : (Queue.powerOn first).Bounded q := by
  have counters : (Queue.powerOn first).counters = .zero := rfl
  have config : (Queue.powerOn first).config.inRange = true := by cases first <;> decide
  exact ⟨counters ▸ QueueCounters.zero_inRange, config, by simp [Queue.powerOn, QueueConfig.default]⟩

theorem classifier_powerOn : Classifier.powerOn.Bounded := by
  refine ⟨fun v mem => ?_, by simp [Classifier.powerOn, ClassifierCounters.zero]⟩
  have zero : v = 0 := Vector.eq_of_mem_replicate (Vector.mem_toList_iff.1 mem)
  rw [zero]
  exact Nat.zero_le _

theorem powerOn (pending lines running rate) : RangeParts (.powerOn pending lines running rate) where
  lanes n := by rw [State.lane_powerOn]; exact lane_powerOn
  queues q := by rw [State.queue_powerOn]; exact queue_powerOn q _
  classifier := classifier_powerOn
  link := ⟨by simp [State.powerOn, Link.powerOn, LinkCounters.zero], by simp [State.powerOn, Link.powerOn, Config.gapTimeout],
    by simp [State.powerOn, Link.powerOn, Config.gapTimeout]⟩
  watermark := show Store.powerOn.watermark ≤ 1023 by decide
  notice := .inr (show 10 ≤ Config.renoticeInterval ∧ Config.renoticeInterval ≤ 60000 by decide)

theorem storeReset (h : RangeParts s) : RangeParts s.storeReset := by
  refine s.storeReset_chain.keeps (fun _ _ => laneFlow)
    ⟨fun n => ?_, fun q => ?_, h.classifier.storeReset, h.link, h.watermark, h.notice⟩
  · rw [show s.storeResetBlocks.lane n = (s.lane n).storeReset from mapVec_get Lane.storeReset s.lanes n]
    obtain ⟨counters, config, missing, bad⟩ := h.lanes n
    unfold Lane.storeReset
    split
    · exact ⟨counters, config, missing, bad⟩
    · exact ⟨by simp_all, config, addMissing_le _ _, bad⟩
  · rw [show s.storeResetBlocks.queue q = (s.queue q).storeReset from mapVec_get Queue.storeReset s.queues q]
    exact (h.queues q).same rfl rfl

theorem clearGroup (g : CounterGroup) (h : RangeParts s) : RangeParts (s.clearGroup g) := by
  cases g with
  | lane n => exact h.setLane n ((h.lanes n).count fun _ _ => by simp [LaneCounters.zero])
  | queue q => exact h.countQueue fun _ _ => QueueCounters.zero_inRange
  | rules =>
    refine h.work ⟨fun v mem => ?_, by simp [ClassifierCounters.zero]⟩
    have zero : v = 0 := Vector.eq_of_mem_replicate (Vector.mem_toList_iff.1 mem)
    rw [zero]
    exact Nat.zero_le _
  | link =>
    have zero : LinkCounters.zero.InRange := by simp [LinkCounters.zero]
    exact h.of_eq rfl rfl h.classifier ⟨zero, h.link.least, h.link.most⟩ rfl rfl

theorem endWalk (w : Walk) (h : RangeParts s) : RangeParts (s.endWalk w) := by
  have decided : RangeParts (s.decided w) := h.work ((h.classifier.countDecision _).same ⟨rfl, rfl⟩)
  have handed := State.handOn_law (law := fun a => RangeParts a.state) (fun _ _ => queueFlow) decided
  have taken := State.takeCommit_keeps (fun _ _ => linkFlow)
    (fun _ _ _ work h => h.same rfl rfl ⟨work.matches_, work.counters⟩ ⟨rfl, rfl⟩ rfl rfl) handed
  exact taken.work (taken.classifier.same (Classifier.beginWalk_matches _ _))

theorem effect (e : Effect s t) (h : RangeParts s) : RangeParts t :=
  e.keeps_line (fun _ _ => linkFlow) (fun _ => powerOn _ _ _ _)
    (fun _ _ _ work h => h.same rfl rfl ⟨work.matches_, work.counters⟩ ⟨rfl, rfl⟩ rfl rfl)
    (fun _ _ => laneEffect) (fun _ _ => queueEffect) (fun _ _ => noticeEffect) (fun _ => storeReset) (fun _ => clearGroup)
    (fun w _ => endWalk w) h

theorem takes (taken : Takes s t) (h : RangeParts s) : RangeParts t := by
  cases taken with
  | control => exact h.same rfl rfl ⟨rfl, rfl⟩ ⟨rfl, rfl⟩ rfl rfl
  | lane n k line =>
    have filled := h.setLane n (l := ({ s.lane n with reception := k } : Lane).storePayload) ((h.lanes n).step (now := 0) (.gather k))
    exact filled.same rfl rfl ⟨rfl, rfl⟩ ⟨rfl, rfl⟩ rfl rfl

theorem step (h : RangeParts s) (taken : Machine.step s = .next t) : RangeParts t :=
  step_keeps (fun _ _ h => h.same rfl rfl ⟨rfl, rfl⟩ ⟨rfl, rfl⟩ rfl rfl) (fun _ _ h taken => takes taken h)
    (fun _ _ _ h => exec_keeps powerOn fun _ e => effect e h) (fun _ h _ => h.same rfl rfl ⟨rfl, rfl⟩ ⟨rfl, rfl⟩ rfl rfl) h taken

end RangeParts

/-- Settles O58: every counter saturates, and every value that the host or a lane sets is checked first. -/
theorem stepKeepsRangeLaw : Obligations.StepKeepsRangeLaw := fun s t h taken =>
  (rangeLaw_iff t).2 (((rangeLaw_iff s).1 h).step taken)

end Sys2Proof.Machine
end

section
/-! The field law (R3 to R5): what each change that a step is made of does to the fields of the records. -/
namespace Sys2Proof.Machine

/-! ## The lanes -/

/-- What the field law says of the record that lane n assembles (R3, R5). -/
def Lane.FieldsOk (n : LaneId) (l : Lane) : Prop :=
  ∀ r ∈ l.assembly, r.lane = n ∧ r.Accepted ∧ r.Unclassified ∧ r.arrival = none ∧
    ∃ covered, l.receiver = .record covered r.payloadLength true ∧
      r.payload = (l.reception.bytes.drop covered.length).take r.payloadLength

theorem Lane.makeDue_reception (l : Lane) (f : LaneFrame) : (l.makeDue f).reception = l.reception := by
  unfold Lane.makeDue
  split <;> rfl

theorem Lane.dueProbe_reception (l : Lane) (k : Fin 4) : (l.dueProbe k).reception = l.reception := by
  unfold Lane.dueProbe
  split
  · rfl
  · exact l.makeDue_reception _

theorem Lane.dueCredit_reception (l : Lane) (now : Nat) : (l.dueCredit now).reception = l.reception := by
  unfold Lane.dueCredit
  dsimp only
  split
  · rfl
  · exact Lane.makeDue_reception _ _

theorem Lane.frameSent_reception (l : Lane) (now : Nat) : (l.frameSent now).reception = l.reception := by
  unfold Lane.frameSent
  split
  · rfl
  · dsimp only
    split <;> rfl

namespace Lane.FieldsOk

variable {n : LaneId} {now : Nat} {l l' : Lane}

theorem of_none (empty : l.assembly = none) : l.FieldsOk n := fun r mem => by rw [empty] at mem; cases mem

/-- The assembly, the receiver and the bytes received are as they were. -/
theorem same (h : l.FieldsOk n) (frame : l'.assembly = l.assembly ∧ l'.receiver = l.receiver)
    (reception : l'.reception = l.reception) : l'.FieldsOk n := by
  obtain ⟨assembly, receiver⟩ := frame
  unfold Lane.FieldsOk
  rw [assembly, receiver, reception]
  exact h

/-- A lane that hunts assembles nothing, and so does one that is idle. -/
theorem idle (h : l.FieldsOk n) (idle : l.Idle) : l.assembly = none := by
  obtain hunting | none := idle
  · refine Option.eq_none_iff_forall_ne_some.2 fun r assembly => ?_
    obtain ⟨-, -, -, -, covered, receiver, -⟩ := h r assembly
    rw [hunting] at receiver
    cases receiver
  · exact none

/-- What has been received of the payload is stored (R59). -/
theorem gather (h : l.FieldsOk n) (k : Reception) : ({ l with reception := k } : Lane).storePayload.FieldsOk n := by
  intro r stored
  rw [Lane.storePayload_assembly, Option.mem_def, Option.map_eq_some_iff] at stored
  obtain ⟨r, assembly, rfl⟩ := stored
  obtain ⟨lane, accepted, unclassified, arrival, covered, receiver, -⟩ := h r assembly
  have filled : Lane.fillPayload { l with reception := k } r =
      { r with payload := (k.bytes.drop covered.length).take r.payloadLength } := by
    unfold Lane.fillPayload
    simp only [receiver]
  rw [filled]
  exact ⟨lane, accepted, unclassified, arrival, covered, receiver, rfl⟩

theorem step (step : Lane.Step now l l') (h : l.FieldsOk n) : l'.FieldsOk n := by
  cases step with
  | enterProbing => exact h.same (l.enterProbing_assembly now) (Lane.dueProbe_reception _ 0)
  | probeOn k => exact h.same (Lane.dueProbe_assembly _ k) (Lane.dueProbe_reception _ k)
  | restartProbe => exact h.same (Lane.dueProbe_assembly _ 0) (Lane.dueProbe_reception _ 0)
  | makeDue f => exact h.same (l.makeDue_assembly f) (l.makeDue_reception f)
  | dueCredit => exact h.same (l.dueCredit_assembly now) (l.dueCredit_reception now)
  | enterClosing => exact h.same (Lane.makeDue_assembly _ _) (Lane.makeDue_reception _ _)
  | frameSent => exact h.same (l.frameSent_assembly now) (l.frameSent_reception now)
  | gather k => exact h.gather k
  | bad idle => exact of_none (h.idle idle)
  | good idle => exact of_none ((l.goodFrame_assembly now).1.trans (h.idle idle))
  | receive covered remaining inSession idle => exact of_none (h.idle idle)
  | hunt empty => exact of_none empty
  | count | activate | advance | credit | config | fail | stopWaiting => exact h.same ⟨rfl, rfl⟩ rfl

theorem drop (drop : Lane.Drop l l') : l'.FieldsOk n := by
  cases drop with
  | down => exact of_none rfl
  | bad => exact of_none rfl

end Lane.FieldsOk

theorem Lane.testCreditAfterE_reception (l : Lane) (now : Nat) : (l.testCreditAfterE now).reception = l.reception := by
  unfold Lane.testCreditAfterE
  split
  · exact l.dueCredit_reception now
  · rfl

/-- The record of an accepted header has no payload yet, and it holds nothing that comes later (R3, R5). -/
theorem Lane.FieldsOk.accepted {n : LaneId} {l : Lane} {covered : List Byte} {h : RecordHeader} (d missing : Nat) (now : Nat)
    (payload : h.payloadLength.toNat ≤ 240) (most : missing ≤ 65535) :
    (l.accepted covered h d (acceptedRecord n h missing) now).FieldsOk n := by
  obtain ⟨assembly, receiver⟩ := Lane.accepted_assembly covered h d (acceptedRecord n h missing) now l
  have bytes : (l.accepted covered h d (acceptedRecord n h missing) now).reception.bytes = covered := by
    unfold Lane.accepted
    rw [Lane.testCreditAfterE_reception]
    exact Lane.gathered_bytes l covered now
  intro r assembled
  rw [assembly] at assembled
  cases assembled
  refine ⟨rfl, ⟨payload, Nat.zero_le _, fun m some => ?_⟩, ⟨rfl, rfl, rfl, rfl, rfl, rfl⟩, rfl, covered, receiver, ?_⟩
  · simp only [acceptedRecord, Option.mem_def, Option.ite_none_left_eq_some, Option.some.injEq] at some
    omega
  · rw [bytes, List.drop_length, List.take_nil]
    rfl

/-! ## The records between the lanes and the queues -/

/-- What a record on the intake list or in the walk holds (R5). -/
abbrev Record.Received (r : Record) : Prop := r.Accepted ∧ r.Complete ∧ r.Unclassified

/-- What a record in hand holds: with a queue that it is charged to, all that a queued record holds; without, all but the place
in a queue. -/
def Record.InHand : Record × Option QueueId → Prop
  | (r, some q) => r.Classified q
  | (r, none) => r.Accepted ∧ r.Complete ∧ r.generation.isSome = true ∧ ∀ b ∈ r.label, 1 ≤ b.toNat ∧ b.toNat ≤ 15

theorem Record.InHand.uncharged {r : Record} {q : QueueId} (h : r.Classified q) : Record.InHand (r, none) := by
  obtain ⟨accepted, complete, generation, -, -, label⟩ := h
  exact ⟨accepted, complete, generation, label⟩

/-- An admitted record has its queue and its number (R99). -/
theorem Record.InHand.admission {r : Record} (h : Record.InHand (r, none)) (q : QueueId) (number : Word) :
    Record.Classified q { r with admission := some number, queue := some q } := by
  obtain ⟨accepted, complete, generation, label⟩ := h
  exact ⟨accepted, complete, generation, rfl, rfl, label⟩

theorem Record.InHand.spilled {r : Record} (h : Record.InHand (r, none)) :
    Record.InHand ({ r with deliveryCount := 0, spilled := true }, none) := by
  obtain ⟨⟨payload, -, missing⟩, complete, generation, label⟩ := h
  exact ⟨⟨payload, Nat.zero_le _, missing⟩, complete, generation, label⟩

/-- A delivery is counted, up to 255 (R120). -/
theorem Record.Classified.delivered {r : Record} {q : QueueId} (h : r.Classified q) :
    Record.Classified q { r with deliveryCount := satAdd 255 r.deliveryCount 1 } := by
  obtain ⟨⟨payload, -, missing⟩, complete, generation, queue, admission, label⟩ := h
  exact ⟨⟨payload, Nat.min_le_right _ _, missing⟩, complete, generation, queue, admission, label⟩

/-! ## The labels of a valid bank -/

theorem decidingRule_valid {r : Record} {rules : List RuleEntry} {i j : Nat} {so : Bool} {e : RuleEntry}
    (valid : firstInvalidRule i rules = none) (decides : decidingRule r i so rules = some (j, e)) : e.valid j = true := by
  induction rules generalizing i so with
  | nil => cases decides
  | cons x rest ih =>
    unfold firstInvalidRule at valid
    unfold decidingRule at decides
    split at valid
    · dsimp only at decides
      split at decides
      · exact ih valid decides
      · split at decides
        · cases decides
          assumption
        · exact ih valid decides
    · cases valid

/-- A label that a valid bank decides on is at most 15 (R86). -/
theorem RuleBank.judge_label {b : RuleBank} {r : Record} {q : QueueId} {label : Byte} (valid : b.valid = true)
    (decides : (b.judge r).2 = .deliver q label) : label.toNat ≤ 15 := by
  have passes : firstInvalidRule 0 b.rules.toList = none := by
    unfold RuleBank.valid RuleBank.firstInvalid at valid
    cases first : firstInvalidRule 0 b.rules.toList with
    | none => rfl
    | some i => rw [first] at valid; cases valid
  unfold RuleBank.judge decisionOf at decides
  split at decides
  · rename_i i e found
    obtain ⟨-, -, -, -, label, -⟩ := RuleEntry.valid_iff.1 (decidingRule_valid passes found)
    dsimp only at decides
    split at decides
    · cases decides; exact label
    · cases decides
  · dsimp only at decides
    split at decides
    · cases decides; decide
    · cases decides

end Sys2Proof.Machine
end

section
/-! The field law after every change that a step is made of, and after every step. -/
namespace Sys2Proof.Machine

theorem mem_insertByAge {age : Record → Nat} {r x : Record} {list : List Record} (mem : x ∈ insertByAge age r list) :
    x = r ∨ x ∈ list := by
  rw [insertByAge_eq, List.mem_append, List.mem_cons] at mem
  conv_rhs => rw [← olderPart_append_youngerPart age r list, List.mem_append]
  tauto

/-- The field law inside a step: the records in hand hold what a record in a queue holds, but for the place of those that are
charged to none. -/
structure Handling.FieldLaw (a : Handling) : Prop where
  lanes : ∀ n, (a.state.lane n).FieldsOk n
  intake : ∀ r ∈ a.state.classifier.intake, r.Received
  walk : ∀ w ∈ a.state.classifier.walk, w.record.Received
  queues : ∀ q, ∀ r ∈ (a.state.queue q).list, r.Classified q
  slots : ∀ i, ∀ o ∈ (a.state.slot i).occupant, o.record.Classified o.source
  hand : ∀ x ∈ a.hand, Record.InHand x

theorem fieldLaw_iff (s : State) (k : Nat) : FieldLaw s ↔ Handling.FieldLaw ⟨s, [], k⟩ :=
  ⟨fun ⟨lanes, intake, walk, queues, slots⟩ => ⟨lanes, intake, walk, queues, slots, fun _ mem => by cases mem⟩,
    fun ⟨lanes, intake, walk, queues, slots, _⟩ => ⟨lanes, intake, walk, queues, slots⟩⟩

namespace Handling.FieldLaw

variable {a b : Handling}

theorem of_eq (h : a.FieldLaw) (lanes : b.state.lanes = a.state.lanes)
    (work : b.state.classifier.intake = a.state.classifier.intake ∧ b.state.classifier.walk = a.state.classifier.walk)
    (queues : ∀ q, ∀ r ∈ (b.state.queue q).list, r.Classified q)
    (slots : ∀ i, ∀ o ∈ (b.state.slot i).occupant, o.record.Classified o.source)
    (hand : ∀ x ∈ b.hand, Record.InHand x) : b.FieldLaw := by
  obtain ⟨intake, walk⟩ := work
  refine ⟨fun n => ?_, intake ▸ h.intake, walk ▸ h.walk, queues, slots, hand⟩
  rw [show b.state.lane n = a.state.lane n by unfold State.lane; rw [lanes]]
  exact h.lanes n

variable {s : State} {H : List (Record × Option QueueId)} {k : Nat} {q : QueueId} {r : Record}

/-- The queue whose list is written holds records of its own. -/
theorem list_written {list : List Record} (h : ∀ p, ∀ r ∈ (s.queue p).list, r.Classified p) (own : ∀ r ∈ list, r.Classified q) :
    ∀ p, ∀ r ∈ ((s.setList q list).queue p).list, r.Classified p := by
  intro p
  rw [State.queue_setList]
  split
  · rename_i same
    exact same ▸ own
  · exact h p

/-- A queue whose list stays may change in all else. -/
theorem list_kept {x : Queue} (h : ∀ p, ∀ r ∈ (s.queue p).list, r.Classified p) (list : x.list = (s.queue q).list) :
    ∀ p, ∀ r ∈ ((s.setQueue q x).queue p).list, r.Classified p := by
  intro p
  rw [State.queue_setQueue]
  split
  · rename_i same
    subst same
    rw [list]
    exact h q
  · exact h p

theorem slot_written {i : SlotId} {x : Slot} (h : ∀ j, ∀ o ∈ (s.slot j).occupant, o.record.Classified o.source)
    (own : ∀ o ∈ x.occupant, o.record.Classified o.source) :
    ∀ j, ∀ o ∈ ((s.setSlot i x).slot j).occupant, o.record.Classified o.source := by
  intro j
  rw [State.slot_setSlot]
  split
  · exact own
  · exact h j

/-- A record joins a queue, with its number and its place in the list (R99). -/
theorem enqueue (spill : Bool) (h : Handling.FieldLaw ⟨s, (r, none) :: H, k⟩) :
    Handling.FieldLaw ⟨s.enqueue q spill r, H, k + 1⟩ := by
  obtain ⟨record, hand⟩ := List.forall_mem_cons.1 h.hand
  refine h.of_eq (State.enqueue_lanes s q spill r) ⟨rfl, rfl⟩ ?_ h.slots hand
  unfold State.enqueue
  refine list_kept (list_kept (list_written (list_kept h.queues rfl) ?_) rfl) rfl
  intro x mem
  obtain mem | mem := List.mem_append.1 mem
  · rw [State.queue_setQueue, if_pos rfl] at mem
    exact h.queues q x mem
  · rw [List.mem_singleton.1 mem]
    exact record.admission q _

theorem flow (flow : QueueFlow a b) (h : a.FieldLaw) : b.FieldLaw := by
  cases flow with
  | skip => exact ⟨h.lanes, h.intake, h.walk, h.queues, h.slots, h.hand⟩
  | pull s H k q pulled rest list =>
    have own : ∀ r ∈ pulled ++ rest, r.Classified q := list ▸ h.queues q
    refine h.of_eq rfl ⟨rfl, rfl⟩ (list_written h.queues fun r mem => own r (List.mem_append_right _ mem)) h.slots ?_
    refine List.forall_mem_append.2 ⟨fun x mem => ?_, h.hand⟩
    obtain ⟨r, taken, rfl⟩ := List.mem_map.1 mem
    exact own r (List.mem_append_left _ taken)
  | unslot s H k i o occupied =>
    exact h.of_eq rfl ⟨rfl, rfl⟩ h.queues (slot_written h.slots fun o none => by cases none)
      (List.forall_mem_cons.2 ⟨h.slots i o occupied, h.hand⟩)
  | uncharge s H k r q =>
    obtain ⟨record, hand⟩ := List.forall_mem_cons.1 h.hand
    exact h.of_eq rfl ⟨rfl, rfl⟩ (list_kept h.queues rfl) h.slots
      (List.forall_mem_cons.2 ⟨Record.InHand.uncharged record, hand⟩)
  | free => exact h.of_eq rfl ⟨rfl, rfl⟩ h.queues h.slots (List.forall_mem_cons.1 h.hand).2
  | spill s H k r =>
    obtain ⟨record, hand⟩ := List.forall_mem_cons.1 h.hand
    exact h.of_eq rfl ⟨rfl, rfl⟩ h.queues h.slots (List.forall_mem_cons.2 ⟨record.spilled, hand⟩)
  | admission s H k r q spill => exact h.enqueue spill
  | evict s H k r q spill head rest enabled list =>
    have own : ∀ r ∈ head :: rest, r.Classified q := list ▸ h.queues q
    have evicted : Handling.FieldLaw ⟨s.evictHead q head rest, (r, none) :: H, k⟩ := by
      refine h.of_eq (State.evictHead_lanes s q head rest) ⟨rfl, rfl⟩ ?_ h.slots h.hand
      unfold State.evictHead
      exact list_kept (list_kept (list_written h.queues (List.forall_mem_cons.1 own).2) rfl) rfl
    exact evicted.enqueue spill
  | requeue s H k r q =>
    obtain ⟨record, hand⟩ := List.forall_mem_cons.1 h.hand
    refine h.of_eq rfl ⟨rfl, rfl⟩ (list_written h.queues fun x mem => ?_) h.slots hand
    exact (mem_insertByAge mem).elim (fun same => same ▸ record) (h.queues q x)
  | claim s H k r q i c =>
    obtain ⟨record, hand⟩ := List.forall_mem_cons.1 h.hand
    refine h.of_eq rfl ⟨rfl, rfl⟩ h.queues (slot_written h.slots fun o claimed => ?_) hand
    cases claimed
    exact Record.Classified.delivered record
  | extend s H k i o c occupied =>
    refine h.of_eq rfl ⟨rfl, rfl⟩ h.queues (slot_written h.slots fun o' extended => ?_) h.hand
    cases extended
    exact h.slots i o occupied
  | config => exact h.of_eq rfl ⟨rfl, rfl⟩ (list_kept h.queues rfl) h.slots h.hand
  | count => exact h.of_eq rfl ⟨rfl, rfl⟩ (list_kept h.queues rfl) h.slots h.hand
  | countClassifier | raise => exact h.of_eq rfl ⟨rfl, rfl⟩ h.queues h.slots h.hand

end Handling.FieldLaw

namespace FieldLaw

variable {s t : State}

/-- The law does not see the store, the counters and the timers. -/
theorem of_eq (h : FieldLaw s) (lanes : t.lanes = s.lanes) (intake : t.classifier.intake = s.classifier.intake)
    (walk : t.classifier.walk = s.classifier.walk) (queues : t.queues = s.queues) (slots : t.slots = s.slots) : FieldLaw t := by
  have lane : ∀ n, t.lane n = s.lane n := fun n => by unfold State.lane; rw [lanes]
  have queue : ∀ q, t.queue q = s.queue q := fun q => by unfold State.queue; rw [queues]
  have slot : ∀ i, t.slot i = s.slot i := fun i => by unfold State.slot; rw [slots]
  unfold FieldLaw at h ⊢
  simpa only [lane, intake, walk, queue, slot] using h

theorem same (same : SameRecords s t) (h : FieldLaw s) : FieldLaw t :=
  h.of_eq same.lanes same.intake same.walk same.queues same.slots

theorem setLane (h : FieldLaw s) (n : LaneId) {l : Lane} (fields : l.FieldsOk n) : FieldLaw (s.setLane n l) := by
  obtain ⟨lanes, rest⟩ := h
  refine ⟨fun m => ?_, rest⟩
  rw [State.lane_setLane]
  split
  · rename_i same
    exact same ▸ fields
  · exact lanes m

/-- The walk in flight and the intake list hold what the lanes have received. -/
theorem work (h : FieldLaw s) {c : Classifier} (intake : ∀ r ∈ c.intake, r.Received) (walk : ∀ w ∈ c.walk, w.record.Received) :
    FieldLaw { s with classifier := c } := by
  obtain ⟨lanes, -, -, rest⟩ := h
  exact ⟨lanes, intake, walk, rest⟩

theorem beginWalk (h : FieldLaw s) (now : Nat) : FieldLaw { s with classifier := s.classifier.beginWalk now } := by
  have received : ∀ r ∈ s.classifier.intake, r.Received := h.2.1
  refine h.work ?_ ?_
  · unfold Classifier.beginWalk
    split
    · exact received
    · rename_i r rest intake
      exact fun x mem => received x (intake ▸ List.mem_cons_of_mem _ mem)
  · unfold Classifier.beginWalk
    split
    · exact fun w none => by cases none
    · rename_i r rest intake
      intro w began
      cases began
      exact received r (intake ▸ List.mem_cons_self)

theorem join (h : FieldLaw s) (now : Nat) {r : Record} (received : r.Received) :
    FieldLaw { s with classifier := s.classifier.join now r } := by
  have joined : FieldLaw { s with classifier := { s.classifier with intake := s.classifier.intake ++ [r] } } := by
    refine h.work (List.forall_mem_append.2 ⟨h.2.1, fun x mem => ?_⟩) h.2.2.1
    rw [List.mem_singleton.1 mem]
    exact received
  unfold Classifier.join
  dsimp only
  split
  · exact joined
  · exact joined.beginWalk now

/-- The record of a good end verdict has its whole payload (R60). -/
theorem received {n : LaneId} {covered rest crc : List Byte} {inSession : Bool} {r : Record} {l : Lane} (now : Word)
    (h : l.FieldsOk n) (receiver : l.receiver = .record covered rest.length inSession)
    (bytes : l.reception.bytes = covered ++ rest ++ crc) (assembly : l.assembly = some r) :
    Record.Received { r with arrival := some now } := by
  obtain ⟨-, accepted, unclassified, -, covered', receiver', payload⟩ := h r assembly
  have same : covered' = covered ∧ r.payloadLength = rest.length := by
    rw [receiver, LaneReceiver.record.injEq] at receiver'
    obtain ⟨rfl, length, -⟩ := receiver'
    exact ⟨rfl, length.symm⟩
  obtain ⟨rfl, length⟩ := same
  refine ⟨accepted, ⟨?_, rfl⟩, unclassified⟩
  change r.payload.length = r.payloadLength
  rw [payload, bytes, length]
  simp

theorem laneFlow (flow : LaneFlow s t) (h : FieldLaw s) : FieldLaw t := by
  cases flow with
  | step n l step => exact h.setLane n ((show (s.lane n).FieldsOk n from h.1 n).step step)
  | drop n l drop => exact (h.setLane n (.drop drop)).of_eq rfl rfl rfl rfl rfl
  | recorded n covered rest crc inSession r receiver bytes assembly =>
    have empty : ((s.lane n).recorded s.clock).assembly = none := (Lane.goodFrame_assembly _ _).1
    exact (h.setLane n (.of_none empty)).join s.clock (received s.timebase (h.1 n) receiver bytes assembly)
  | raise | pointer => exact h.of_eq rfl rfl rfl rfl rfl

theorem accepts {n : LaneId} {covered : List Byte} {x : RecordHeader} {d : Nat} (a : Accepts s n covered x d t)
    (h : FieldLaw s) : FieldLaw t := by
  rw [a.eq]
  have written := h.setLane n (l := (s.lane n).accepted covered x d (Accepts.record s n x d) s.clock)
    (.accepted d _ s.clock a.payload (addMissing_le _ _))
  obtain ⟨lanes, classifier, queues, slots⟩ := State.allocate_lanes (Accepts.record s n x d) (s.setLane n
    ((s.lane n).accepted covered x d (Accepts.record s n x d) s.clock))
  exact written.of_eq lanes (by rw [classifier]) (by rw [classifier]) queues slots

theorem laneEffect (e : LaneEffect s t) (h : FieldLaw s) : FieldLaw t := by
  obtain chain | ⟨n, covered, x, d, accepted⟩ := e.chain
  · exact chain.keeps (fun _ _ => laneFlow) h
  · exact accepts accepted h

theorem queueEffect (e : QueueEffect s t) (h : FieldLaw s) : FieldLaw t := by
  obtain ⟨k, -, chain⟩ := e.chain
  exact (fieldLaw_iff t k).2 (chain.keeps (fun _ _ => Handling.FieldLaw.flow) ((fieldLaw_iff s 0).1 h))

theorem setWatermark (w : Nat) (h : FieldLaw s) : FieldLaw (s.setWatermark w) := by
  have places : (s.setWatermark w).lanes = s.lanes ∧ (s.setWatermark w).classifier = s.classifier := by
    unfold State.setWatermark State.storeLowTest
    dsimp only
    split
    · split <;> exact ⟨rfl, rfl⟩
    · exact ⟨rfl, rfl⟩
  have side : LaneSide s (s.setWatermark w) := .setWatermark (.refl s)
  exact h.of_eq places.1 (by rw [places.2]) (by rw [places.2]) side.queues side.slots

/-- Nothing is held: so it is at power-on and after a STORE reset. -/
theorem of_empty (lanes : ∀ n, (s.lane n).assembly = none) (intake : s.classifier.intake = []) (walk : s.classifier.walk = none)
    (queues : ∀ q, (s.queue q).list = []) (slots : ∀ i, (s.slot i).occupant = none) : FieldLaw s := by
  unfold FieldLaw
  simp [lanes, intake, walk, queues, slots]

theorem powerOn (pending lines running rate) : FieldLaw (.powerOn pending lines running rate) :=
  of_empty (fun n => by rw [State.lane_powerOn]; rfl) rfl rfl (fun q => by rw [State.queue_powerOn]; rfl)
    fun i => by rw [State.slot_powerOn]; rfl

theorem storeReset : FieldLaw s.storeReset := by
  refine s.storeReset_chain.keeps (fun _ _ => laneFlow) (of_empty (fun n => ?_) rfl rfl (fun q => ?_) fun i => ?_)
  · rw [show s.storeResetBlocks.lane n = (s.lane n).storeReset from mapVec_get Lane.storeReset s.lanes n]
    unfold Lane.storeReset
    split
    · exact ‹_›
    · rfl
  · rw [show s.storeResetBlocks.queue q = (s.queue q).storeReset from mapVec_get Queue.storeReset s.queues q]
    rfl
  · rw [show s.storeResetBlocks.slot i = (s.slot i).storeReset from mapVec_get Slot.storeReset s.slots i]
    rfl

theorem clearGroup (g : CounterGroup) (h : FieldLaw s) : FieldLaw (s.clearGroup g) := by
  cases g with
  | lane n => exact h.setLane n ((show (s.lane n).FieldsOk n from h.1 n).same ⟨rfl, rfl⟩ rfl)
  | queue q => exact (fieldLaw_iff _ 0).2 (.flow (.count s [] 0 q _ fun _ _ => QueueCounters.zero_inRange) ((fieldLaw_iff s 0).1 h))
  | rules | link => exact h.of_eq rfl rfl rfl rfl rfl

/-- The record of a walk takes the generation and a label of the active bank, which is valid (R79). -/
theorem handOn {w : Walk} (valid : s.classifier.active.valid = true) (walk : s.classifier.walk = some w) (h : FieldLaw s) :
    FieldLaw ((s.decided w).handOn (s.classifier.active.judge w.record).2 w.record) := by
  have decided : FieldLaw (s.decided w) := by
    refine h.work ?_ fun w none => by cases none
    rw [show ({ s.classifier.countDecision _ with walk := none } : Classifier).intake = s.classifier.intake from
      Classifier.countDecision_intake _ _]
    exact h.2.1
  have record : w.record.Received := h.2.2.1 w walk
  cases judged : (s.classifier.active.judge w.record).2 with
  | discard => exact decided.of_eq rfl rfl rfl rfl rfl
  | deliver q label =>
    obtain ⟨accepted, complete, -⟩ := record
    obtain ⟨lanes, intake, walk, queues, slots, -⟩ := (fieldLaw_iff _ 0).1 decided
    have start : Handling.FieldLaw ⟨s.decided w, [(s.outcome w, none)], 0⟩ := by
      refine ⟨lanes, intake, walk, queues, slots, List.forall_mem_singleton.2 ?_⟩
      unfold State.outcome
      rw [judged]
      refine ⟨accepted, complete, rfl, fun b named => ?_⟩
      have named : (if label = 0 then none else some label) = some b := named
      rw [Option.ite_none_left_eq_some, Option.some.injEq] at named
      obtain ⟨nonzero, rfl⟩ := named
      have least : label.toNat ≠ 0 := fun zero => nonzero (BitVec.eq_of_toNat_eq zero)
      exact ⟨Nat.one_le_iff_ne_zero.2 least, RuleBank.judge_label valid judged⟩
    have handed := State.handOn_law (fun _ _ => Handling.FieldLaw.flow) start
    rw [judged] at handed
    exact (fieldLaw_iff _ 1).2 handed

theorem endWalk {w : Walk} (valid : s.classifier.active.valid = true) (walk : s.classifier.walk = some w) (h : FieldLaw s) :
    FieldLaw (s.endWalk w) :=
  beginWalk (same (SameRecords.takeCommit _) (handOn valid walk h)) _

theorem effect (e : Effect s t) (rules : RulesLaw s) (h : FieldLaw s) : FieldLaw t :=
  e.keeps_records (fun _ h => h) (fun _ _ => same) (fun _ _ => same) powerOn (fun _ _ h e => laneEffect e h)
    (fun _ _ h e => queueEffect e h) (fun _ w _ => setWatermark w) (fun _ _ => storeReset) (fun _ g => clearGroup g)
    (fun _ walk => endWalk rules.1 walk) h

/-- The active bank is valid, and the records hold what they have to. -/
def WithRules (s : State) : Prop := RulesLaw s ∧ FieldLaw s

theorem step (law : WithRules s) (taken : Machine.step s = .next t) : WithRules t := by
  refine step_keeps (fun _ _ law => ⟨law.1.of_eq rfl rfl, law.2.of_eq rfl rfl rfl rfl rfl⟩) ?_ ?_
    (fun _ law _ => ⟨law.1.of_eq rfl rfl, law.2.of_eq rfl rfl rfl rfl rfl⟩) law taken
  · intro s t law taken
    refine ⟨?_, taken.keeps_FieldLaw law.2⟩
    cases taken <;> exact law.1.of_eq rfl rfl
  · intro i s t law ran
    exact exec_keeps (fun _ _ _ _ => ⟨RulesLaw.powerOn _ _ _ _, powerOn _ _ _ _⟩)
      (fun t e => ⟨RulesLaw.effect e law.1, effect e law.1 law.2⟩) ran

end FieldLaw

/-- Settles O59: a record gains fields along its way alone, and a label it is given comes from the active bank, which is valid. -/
theorem stepKeepsFieldLaw : Obligations.StepKeepsFieldLaw := fun _ _ rules h taken => (FieldLaw.step ⟨rules, h⟩ taken).2

end Sys2Proof.Machine
end

section
/-! The line law (R27, R30, R49, R64, R153): what every effect keeps of the receivers and the lane transmitters. -/
namespace Sys2Proof.Machine

/-- What the line law says of the control link receiver. -/
def Reception.ControlHeld (now : Nat) (k : Reception) : Prop :=
  k.FrameLaw 0xB7 ∧ receiveFrame k.bytes = .partway ∧ k.GapLaw now

/-- The line law for the control link receiver of a part. -/
def LinkHeld (s : State) : Prop := s.link.reception.ControlHeld s.clock

theorem lineLaw_iff (s : State) : LineLaw s ↔ LinkHeld s ∧ LanesHeld s := Iff.rfl

namespace Reception

variable {now : Nat} {k : Reception}

/-- The gap law of the characters to be looked at again follows from that of all characters held. -/
theorem GapLaw.again (h : k.GapLaw now) : ∀ c ∈ k.again.getLast?, now ≤ c.gapEnd + 1 :=
  fun c mem => h c (Lane.Held.getLast_append mem)

/-- A receiver that hunts holds no frame. -/
theorem ControlHeld.of_hunting (frame : k.frame = []) (gap : k.GapLaw now) : k.ControlHeld now := by
  have law : k.FrameLaw 0xB7 := fun c mem => by rw [frame] at mem; cases mem
  refine ⟨law, ?_, gap⟩
  rw [show k.bytes = [] by unfold bytes; rw [frame]; rfl]
  rfl

theorem ControlHeld.ended (gap : k.GapLaw now) : k.ended.ControlHeld now := .of_hunting rfl gap.again

theorem ControlHeld.rehunt (gap : k.GapLaw now) : k.rehunt.ControlHeld now := by
  refine .of_hunting rfl fun c mem => ?_
  have mem : c ∈ (k.frame.tail ++ k.again).getLast? := mem
  cases frame : k.frame with
  | nil => rw [frame] at mem; exact gap.again c mem
  | cons x rest =>
    rw [frame] at mem
    refine gap c ?_
    rw [frame]
    exact Lane.Held.getLast_append (a := [x]) mem

end Reception

namespace LinkHeld

variable {s t : State}

theorem of_eq (h : LinkHeld s) (reception : t.link.reception = s.link.reception) (clock : t.clock = s.clock) : LinkHeld t := by
  unfold LinkHeld
  rw [reception, clock]
  exact h

/-- A link error is taken: hunting resumes behind the start-of-frame character of the failed frame (R153). -/
theorem linkErrorTaken {count : LinkCounters → LinkCounters} (gap : s.link.reception.GapLaw s.clock) :
    LinkHeld (s.linkErrorTaken count) := by
  have hunts : s.link.reception.rehunt.ControlHeld s.clock := .rehunt gap
  unfold State.linkErrorTaken
  dsimp only
  split <;> exact hunts

theorem flow (flow : LinkFlow s t) (h : LinkHeld s) : LinkHeld t := by
  cases flow with
  | link k same => exact h.of_eq same.reception rfl
  | listen k hunts =>
    obtain rfl | rfl := hunts
    · exact Reception.ControlHeld.ended h.2.2
    · exact Reception.ControlHeld.rehunt h.2.2
  | count | raise | syncNotice | beginNotice | config => exact h.of_eq rfl rfl

/-- A good frame has been heard: hunting goes on behind it (R153). -/
theorem frameArrives {f : Frame} (gap : s.link.reception.GapLaw s.clock) : LinkHeld (s.frameArrives f) := by
  have heard : LinkHeld s.frameHeard := Reception.ControlHeld.ended gap
  exact LinkChain.heard_frameArrives.keeps (fun _ _ => flow) heard

end LinkHeld

/-! ## The lanes -/

theorem State.laneGoodFrame_gathering {s : State} {n : LaneId} {kind : Byte} {body : List Byte}
    (gathering : (s.lane n).receiver ≠ .hunting) : s.laneGoodFrame n kind body = s := by
  unfold State.laneGoodFrame
  dsimp only
  rw [if_pos gathering]

/-- A RECORD frame in a session is taken by its header decision and its end verdict alone (R49, R60). -/
theorem State.laneGoodFrame_record {s : State} {n : LaneId} {body : List Byte} (session : (s.lane n).inSession = true) :
    s.laneGoodFrame n LaneKind.record body = s := by
  unfold State.laneGoodFrame
  dsimp only
  split
  · rfl
  · simp [LaneKind.record, LaneKind.echo, LaneKind.keepalive, LaneKind.close, LaneKind.closeAck]

namespace LanesHeld

variable {s t : State} {n : LaneId}

theorem laneGoodFrame {kind : Byte} {body : List Byte} (h : LanesHeld s) : LanesHeld (s.laneGoodFrame n kind body) := by
  by_cases hunting : (s.lane n).receiver = .hunting
  · by_cases record : kind = LaneKind.record ∧ (s.lane n).inSession = true
    · obtain ⟨rfl, session⟩ := record
      rw [State.laneGoodFrame_record session]
      exact h
    · refine (h.but n).laneGoodFrame hunting fun kind => ?_
      exact Bool.eq_false_of_not_eq_true fun session => record ⟨kind, session⟩
  · rw [State.laneGoodFrame_gathering hunting]
    exact h

theorem restartProbe (probing : (s.lane n).state = .probing) (h : LanesHeld s) : LanesHeld (s.mapLane n Lane.restartProbe) :=
  h.mapLane fun held => held.restartProbe probing

/-- Every effect on the lanes keeps the line law. -/
theorem laneEffect (e : LaneEffect s t) (h : LanesHeld s) : LanesHeld t := by
  cases e with
  | goodFrame => exact h.laneGoodFrame
  | frameFails n => exact (h.but n).laneFrameFails
  | restartProbe n probing => exact h.restartProbe probing
  | probeWindowOver => exact raise (h.mapLane fun held => held.same rfl rfl (held.2.2.2.dropped rfl rfl))
  | lost => exact h.loseLane
  | closed => exact h.closingEnd
  | refreshed n active => exact h.mapLane fun held => held.dueCredit _ active
  | frameSent => exact h.frameSent
  | headerDecided n length seqByte check x hunting least most => exact (h.but n).headerDecision (h n).1 least most
  | headerPassed n length seqByte check x hunting least most =>
    obtain ⟨shape, kind, size⟩ := LanesHeldBut.headerCovered_shape length seqByte x check
    exact (h.but n).receiveRecord (h n).1 shape kind (by rw [size]; omega) (by omega)
  | shortRecord n bytes good hunting =>
    exact (h.but n).recordBytes.shortRecordEnd (by rwa [State.recordBytes_receiver])
  | recordGood n => exact (h.but n).recordBytes.recordGood
  | recordBad n => exact (h.but n).recordBytes.recordBad
  | frameEnd n => exact (h.but n).recordBytes.frameEnd
  | grant => exact h.grant
  | laneConfig => exact h.laneConfigAct
  | laneOpen => exact h.laneOpenAct
  | laneClose => exact h.laneCloseAct
  | laneAbort => exact h.laneAbortAct

end LanesHeld

/-! ## Every effect -/

theorem NoticeEffect.line {s t : State} (h : NoticeEffect s t) : t.lanes = s.lanes ∧ t.clock = s.clock := by
  cases h with
  | noticeAck => rw [noticeAckAct_eq]; exact ⟨rfl, rfl⟩
  | noticeConfig body =>
    unfold noticeConfigAct
    split
    · exact ⟨rfl, rfl⟩
    · unfold State.setWatermark State.storeLowTest
      dsimp only
      split
      · split <;> exact ⟨rfl, rfl⟩
      · exact ⟨rfl, rfl⟩
  | renew | hold => exact ⟨rfl, rfl⟩

theorem Lane.powerOn_held (n : LaneId) (now : Nat) : Lane.powerOn.Held n now :=
  .hunting rfl rfl (fun _ none => by cases none) ⟨fun _ => rfl, Nat.zero_le _, Nat.zero_le _, fun _ none => by cases none⟩

/-- How a law of the receivers, the lanes and the time holds after every effect. -/
theorem Effect.keeps_receivers {P : State → Prop}
    (same : ∀ s t : State, t.link.reception = s.link.reception → t.lanes = s.lanes → t.clock = s.clock → P s → P t)
    (link : ∀ s t, LinkFlow s t → P s → P t) (powerOn : ∀ pending lines running rate, P (.powerOn pending lines running rate))
    (lane : ∀ s t, LaneEffect s t → P s → P t) (reset : ∀ s, P s → P s.storeReset)
    (counters : ∀ s n, P s → P (s.clearGroup (.lane n))) {s t : State} (e : Effect s t) (h : P s) : P t := by
  refine e.keeps_line link (fun _ => powerOn _ _ _ _) (fun s c x _ => same s _ rfl rfl rfl) lane ?queue ?notice reset ?counters ?walk h
  case queue => exact fun s t e => same s t (by rw [e.side.link]) e.side.lanes e.side.clock
  case notice => exact fun s t e => same s t (by rw [e.link]) e.line.1 e.line.2
  case counters =>
    intro s g h
    cases g with
    | lane n => exact counters s n h
    | queue | rules | link => exact same s _ rfl rfl rfl h
  case walk =>
    intro w _ h
    have handed : P ((s.decided w).handOn (s.classifier.active.judge w.record).2 w.record) :=
      State.handOn_keeps (fun s c h => same s _ rfl rfl rfl h)
        (fun s t side h => same s t (by rw [side.link]) side.lanes side.clock h) _ _ (same s _ rfl rfl rfl h)
    have taken := State.takeCommit_keeps link (fun s c x _ => same s _ rfl rfl rfl) handed
    exact same (((s.decided w).handOn (s.classifier.active.judge w.record).2 w.record).takeCommit) _ rfl rfl rfl taken

theorem LinkHeld.powerOn (pending lines running rate) : LinkHeld (.powerOn pending lines running rate) :=
  Reception.ControlHeld.of_hunting rfl fun _ none => by cases none

theorem LinkHeld.effect {s t : State} (e : Effect s t) (h : LinkHeld s) : LinkHeld t := by
  refine e.keeps_receivers (fun _ _ reception _ clock h => h.of_eq reception clock) (fun _ _ => flow) powerOn
    (fun _ _ e h => h.of_eq (by rw [e.side.link]) e.side.clock) (fun s h => h.of_eq ?_ s.storeReset_side.clock)
    (fun _ _ h => h.of_eq rfl rfl) h
  rw [s.storeReset_side.link]
  rfl

theorem LanesHeld.powerOn (pending lines running rate) : LanesHeld (.powerOn pending lines running rate) := fun n => by
  rw [State.lane_powerOn]
  exact Lane.powerOn_held n _

theorem LanesHeld.effect {s t : State} (e : Effect s t) (h : LanesHeld s) : LanesHeld t :=
  e.keeps_receivers (fun _ _ _ lanes clock h => h.of_eq lanes clock)
    (fun s t flow h => by cases flow <;> exact h.of_eq rfl rfl) powerOn (fun _ _ => laneEffect) (fun _ => storeReset)
    (fun _ _ h => h.mapLane fun held => held.count _) h

end Sys2Proof.Machine
end

section
/-! The line law after the taking of a character, and after every step (R27, R49, R153). -/
namespace Sys2Proof.Machine

/-! ## The control link receiver -/

/-- A character gathered without a verdict leaves a frame that is partway (R153). -/
theorem Reception.controlHeld_of_none {now g : Nat} {x : LineChar} {k r : Reception} {line rest : List Arrival} (ahead : now ≤ g)
    (taken : r.next g line = some (x, k, rest)) (h : r.ControlHeld now) (quiet : controlVerdict (k.gather controlSof x).frame = none) :
    (k.gather controlSof x).ControlHeld now := by
  obtain ⟨law, -, gap⟩ := h
  have gap := Reception.gather_gap (sof := controlSof) ahead taken gap
  cases frame : (k.gather controlSof x).frame with
  | nil => exact .of_hunting frame gap
  | cons y chars =>
    rw [frame] at quiet
    unfold controlVerdict at quiet
    dsimp only at quiet
    split at quiet
    · cases quiet
    · rename_i stops
      have bytes : (k.gather controlSof x).bytes = chars.map LineChar.byte := by unfold Reception.bytes; rw [frame]; rfl
      refine ⟨Reception.gather_law taken law frame stops, ?_, gap⟩
      rw [bytes]
      split at quiet
      · assumption
      all_goals cases quiet

/-- What the control link receiver gives is a link error or a good frame (R153). -/
theorem controlVerdict_some {chars : List LineChar} {c : Instr} (h : controlVerdict chars = some c) :
    (∃ kind, c = .linkError kind) ∨ ∃ f : Frame, ∀ s, exec c s = s.event (State.frameArrives f) := by
  unfold controlVerdict at h
  split at h
  · cases h
  · split at h
    · cases h; exact .inl ⟨_, rfl⟩
    · split at h
      · cases h
      · cases h; exact .inl ⟨_, rfl⟩
      · cases h; exact .inl ⟨_, rfl⟩
      · rename_i seq kind body rest _
        cases h
        unfold goodControlFrame
        split
        · exact .inr ⟨⟨seq, Kind.sync, body⟩, fun s => rfl⟩
        · exact .inr ⟨⟨seq, kind, body⟩, fun s => rfl⟩

/-- What the control link receiver gives ends its frame (R153). -/
theorem LineLaw.controlCommand {t u : State} {chars : List LineChar} {c : Instr} (running : t.running = true)
    (gap : t.link.reception.GapLaw t.clock) (lanes : LanesHeld t) (gives : controlVerdict chars = some c)
    (ran : exec c t = .next u) : LineLaw u := by
  obtain ⟨kind, rfl⟩ | ⟨f, same⟩ := controlVerdict_some gives
  · have taken : exec (.linkError kind) t = .next (t.linkErrorTaken (linkErrorCount kind)) := State.event_next running _
    cases taken.symm.trans ran
    have side : LinkSide t (t.linkErrorTaken (linkErrorCount kind)) := .linkErrorTaken (.refl t)
    exact ⟨LinkHeld.linkErrorTaken gap, lanes.of_eq side.lanes side.clock⟩
  · cases ((same t).trans (State.event_next running _)).symm.trans ran
    have side : LinkSide t (t.frameArrives f) := .frameArrives (.refl t)
    exact ⟨LinkHeld.frameArrives gap, lanes.of_eq side.lanes side.clock⟩

/-! ## The lane receivers -/

/-- The bytes of a frame that has not been given a verdict, behind the character that has come (R27, R49). -/
theorem laneVerdictOn_none {n : LaneId} {receiver : LaneReceiver} {y : LineChar} {chars : List LineChar}
    (quiet : laneVerdictOn n receiver (y :: chars) = none) :
    (chars.any fun c => !c.stop) ≠ true ∧ laneVerdict n receiver.decided (chars.map LineChar.byte) = none := by
  unfold laneVerdictOn at quiet
  dsimp only at quiet
  split at quiet
  · cases quiet
  · exact ⟨‹_›, quiet⟩

theorem Reception.bytes_of_frame {k : Reception} {y : LineChar} {chars : List LineChar} (frame : k.frame = y :: chars) :
    k.bytes = chars.map LineChar.byte := by
  unfold Reception.bytes
  rw [frame]
  rfl

/-- Behind its header decision a frame holds bytes, and the next character joins them. -/
theorem Reception.gather_of_bytes {sof : Byte} {x : LineChar} {k r : Reception} {line rest : List Arrival} {g : Nat}
    (taken : r.next g line = some (x, k, rest)) (bytes : r.bytes ≠ []) : (k.gather sof x).bytes = r.bytes ++ [x.byte] := by
  obtain ⟨none, -⟩ | ⟨-, -, joined⟩ := Reception.gather_bytes (sof := sof) taken
  · exact absurd (show r.bytes = [] by unfold Reception.bytes; rw [none]; rfl) bytes
  · exact joined

/-- What a frame keeps of the gathering law when one more character has come: before its header decision all of it but the new
byte has no verdict, and behind it its first bytes are those decided on. -/
def Lane.ReachLaw (n : LaneId) (l : Lane) : Prop :=
  match l.receiver with
  | .hunting => ∀ m < l.reception.bytes.length, laneVerdict n none (l.reception.bytes.take m) = none
  | .record covered remaining _ =>
    covered.length = 15 ∧ covered.getD 3 0 = 0x12 ∧ nat16 (covered.getD 0 0) (covered.getD 1 0) = remaining + 13 ∧
    remaining ≤ 247 ∧ ∃ more : List Byte, l.reception.bytes = covered ++ more

theorem Lane.ReachLaw.of_gathered {n : LaneId} {l : Lane} {g : Nat} {x : LineChar} {k : Reception} {line rest : List Arrival}
    (taken : l.reception.next g line = some (x, k, rest)) (h : l.GatherLaw n) :
    ({ l with reception := k.gather laneSof x } : Lane).storePayload.ReachLaw n := by
  unfold Lane.GatherLaw at h
  unfold Lane.ReachLaw
  rw [Lane.storePayload_receiver, Lane.storePayload_reception]
  dsimp only
  cases receiver : l.receiver with
  | hunting =>
    rw [receiver] at h
    dsimp only at h ⊢
    intro m short
    obtain ⟨-, empty, -⟩ | ⟨-, -, joined⟩ := Reception.gather_bytes (sof := laneSof) taken
    · rw [empty]
      exact Lane.Held.idleGather n m
    · rw [joined, List.length_append, List.length_singleton] at short
      rw [joined, List.take_append_of_le_length (Nat.le_of_lt_succ short)]
      exact h m
  | record covered remaining inSession =>
    rw [receiver] at h
    dsimp only at h ⊢
    obtain ⟨size, kind, length, most, more, bytes, -⟩ := h
    have joined := Reception.gather_of_bytes (sof := laneSof) taken (by
      rw [bytes]; intro none; rw [(List.append_eq_nil_iff.1 none).1] at size; cases size)
    rw [bytes, List.append_assoc] at joined
    exact ⟨size, kind, length, most, more ++ [x.byte], joined⟩

/-- Without a verdict the frame has not come to its end (R27, R49). -/
theorem Lane.ReachLaw.gathers {n : LaneId} {l : Lane} (h : l.ReachLaw n)
    (quiet : laneVerdictOn n l.receiver l.reception.frame = none) : l.GatherLaw n := by
  have verdict : laneVerdict n l.receiver.decided l.reception.bytes = none := by
    cases frame : l.reception.frame with
    | nil => unfold Reception.bytes; rw [frame]; rfl
    | cons y chars =>
      rw [frame] at quiet
      rw [Reception.bytes_of_frame frame]
      exact (laneVerdictOn_none quiet).2
  unfold Lane.ReachLaw at h
  unfold Lane.GatherLaw
  cases receiver : l.receiver with
  | hunting =>
    rw [receiver] at h verdict
    intro m
    by_cases short : m < l.reception.bytes.length
    · exact h m short
    · rw [List.take_of_length_le (Nat.le_of_not_lt short)]
      exact verdict
  | record covered remaining inSession =>
    rw [receiver] at h verdict
    dsimp only at h ⊢
    obtain ⟨size, kind, length, most, more, bytes⟩ := h
    refine ⟨size, kind, length, most, more, bytes, ?_⟩
    rw [bytes] at verdict
    match covered, size with
    | l1 :: l0 :: rest, size =>
      obtain ⟨-, -, unfinished⟩ := laneVerdict_none (more := rest ++ more) verdict
      simp only [List.getD_cons_zero, List.getD_cons_succ] at length
      simp only [List.length_append, List.length_cons] at size unfinished
      omega

/-- The lanes once a character has been taken on lane n: its frame may be at its end. -/
structure LanesReach (n : LaneId) (t : State) : Prop where
  held : LanesHeldBut n t
  reach : (t.lane n).ReachLaw n
  frame : ∀ y chars, (t.lane n).reception.frame = y :: chars → (chars.any fun c => !c.stop) ≠ true →
    (t.lane n).reception.FrameLaw 0x9E

namespace LanesReach

variable {s t u : State} {n : LaneId}

theorem of_taken {x : LineChar} {k : Reception} {line rest : List Arrival}
    (taken : (s.lane n).reception.next s.laneGapEnd line = some (x, k, rest)) (h : LanesHeld s) :
    LanesReach n (s.mapLane n fun l => ({ l with reception := k.gather laneSof x } : Lane).storePayload) := by
  refine ⟨(h.but n).mapLane fun held => ⟨?_, held.2.same ⟨rfl, rfl, rfl⟩⟩, ?_, fun y chars => ?_⟩
  · exact Reception.gather_gap (Nat.le_add_right _ _) taken held.1
  · rw [State.lane_mapLane_same]
    exact .of_gathered taken (h n).2.1
  · rw [State.lane_mapLane_same, Lane.storePayload_reception]
    exact fun frame stops => Reception.gather_law taken (h n).1 frame stops

theorem of_eq (h : LanesReach n s) (lanes : t.lanes = s.lanes) (clock : t.clock = s.clock) : LanesReach n t := by
  have lane : t.lane n = s.lane n := by unfold State.lane; rw [lanes]
  exact ⟨h.held.of_eq lanes clock, lane ▸ h.reach, lane ▸ h.frame⟩

/-- Without a verdict the frame goes on. -/
theorem goesOn (h : LanesReach n t) (quiet : laneVerdictOn n (t.lane n).receiver (t.lane n).reception.frame = none) :
    LanesHeld t := by
  intro m
  by_cases same : m = n
  · subst same
    obtain ⟨gap, transmits⟩ := h.held.2
    refine ⟨?_, h.reach.gathers quiet, gap, transmits⟩
    cases frame : (t.lane m).reception.frame with
    | nil => intro c mem; rw [frame] at mem; cases mem
    | cons y chars =>
      rw [frame] at quiet
      exact h.frame y chars frame (laneVerdictOn_none quiet).1
  · exact h.held.1 m same

/-- A RECORD frame before its header decision that has come to its end is too short for one (R49). -/
theorem isShortRecord {l1 l0 q c1 c0 : Byte} {body tl : List Byte} (reach : (t.lane n).ReachLaw n)
    (hunting : (t.lane n).receiver = .hunting)
    (bytes : (t.lane n).reception.bytes = l1 :: l0 :: q :: LaneKind.record :: (body ++ c1 :: c0 :: tl))
    (length : body.length + 2 = nat16 l1 l0) : State.isShortRecord (l1 :: l0 :: q :: LaneKind.record :: body) = true := by
  have short : body.length < 11 := by
    by_contra long
    unfold Lane.ReachLaw at reach
    rw [hunting, bytes] at reach
    dsimp only at reach
    have decided := reach 15 (by simp only [List.length_cons, List.length_append]; omega)
    obtain _ | ⟨a1, _ | ⟨a2, _ | ⟨a3, _ | ⟨a4, _ | ⟨a5, _ | ⟨a6, _ | ⟨a7, _ | ⟨a8, _ | ⟨a9, _ | ⟨a10, _ | ⟨a11, more⟩⟩⟩⟩⟩⟩⟩⟩⟩⟩⟩ :=
      body
    iterate 11 exact absurd (by simp) long
    exact laneVerdict_header (by rw [← length]; simp only [List.length_cons]; omega) decided
  simp [State.isShortRecord, length, short]

/-- The end of a RECORD frame behind its header decision brings the body bytes that were to come (R49, R60). -/
theorem rest_length {covered : List Byte} {remaining : Nat} {inSession : Bool} {l1 l0 q kind c1 c0 : Byte} {body tl : List Byte}
    (reach : (t.lane n).ReachLaw n) (receiver : (t.lane n).receiver = .record covered remaining inSession)
    (bytes : (t.lane n).reception.bytes = l1 :: l0 :: q :: kind :: (body ++ c1 :: c0 :: tl))
    (length : body.length + 2 = nat16 l1 l0) :
    kind = LaneKind.record ∧ ((l1 :: l0 :: q :: kind :: body).drop covered.length).length = remaining := by
  unfold Lane.ReachLaw at reach
  rw [receiver] at reach
  obtain ⟨size, code, total, -, more, gathered⟩ := reach
  match covered, size with
  | m1 :: m0 :: r :: k :: rest, size =>
    rw [gathered] at bytes
    simp only [List.cons_append, List.cons.injEq] at bytes
    obtain ⟨rfl, rfl, -, rfl, -⟩ := bytes
    simp only [List.getD_cons_zero, List.getD_cons_succ] at total code
    refine ⟨code, ?_⟩
    rw [List.length_drop, size]
    simp only [List.length_cons] at size ⊢
    omega

/-- RECORD_END takes a RECORD frame that has come to its end on the line (R49, R60). -/
theorem recordEnd {l1 l0 q c1 c0 : Byte} {body tl : List Byte} (h : LanesReach n t) (running : t.running = true)
    (bytes : (t.lane n).reception.bytes = l1 :: l0 :: q :: LaneKind.record :: (body ++ c1 :: c0 :: tl))
    (length : body.length + 2 = nat16 l1 l0)
    (ran : exec (.recordEnd n ((l1 :: l0 :: q :: LaneKind.record :: body).drop ((t.lane n).receiver.decided.getD 0))
      (half c1 c0)) t = .next u) : LanesHeld u := by
  have taken : execRecordEnd n _ _ t = .next u := ran
  unfold execRecordEnd at taken
  rw [State.event_next running] at taken
  cases receiver : (t.lane n).receiver with
  | hunting =>
    have short := isShortRecord h.reach receiver bytes length
    simp only [receiver, LaneReceiver.decided, Option.getD_none, List.drop_zero, short, if_true] at taken
    cases taken
    exact h.held.recordBytes.shortRecordEnd (by rwa [State.recordBytes_receiver])
  | record covered remaining inSession =>
    have complete := (rest_length h.reach receiver bytes length).2
    simp only [receiver, LaneReceiver.decided, Option.getD_some] at taken
    rw [if_neg (not_not.2 complete)] at taken
    split at taken
    · split at taken
      · cases taken; exact h.held.recordBytes.recordGood
      · cases taken; exact h.held.recordBytes.recordBad
    · cases taken; exact h.held.recordBytes.frameEnd

/-- RECORD_HEADER takes the header decision of a frame on the line (R49). -/
theorem recordHeader {length : Half} {q ck : Byte} {x : RecordHeader} (h : LanesReach n t) (running : t.running = true)
    (frameLaw : (t.lane n).reception.FrameLaw 0x9E) (hunting : (t.lane n).receiver = .hunting) (least : 13 ≤ length.toNat)
    (most : length.toNat ≤ 260) (ran : exec (.recordHeader n length q x ck) t = .next u) : LanesHeld u := by
  have taken : execRecordHeader n length q x ck t = .next u := ran
  unfold execRecordHeader at taken
  rw [State.event_next running] at taken
  dsimp only at taken
  have fits : ¬((t.lane n).receiver ≠ .hunting ∨ length.toNat < 13 ∨ 260 < length.toNat) := by
    simp only [not_or, not_not, not_lt]
    exact ⟨hunting, least, most⟩
  rw [if_neg fits] at taken
  split at taken
  · cases taken
    exact h.held.headerDecision frameLaw least most
  · cases taken
    obtain ⟨shape, kind, size⟩ := LanesHeldBut.headerCovered_shape length q x ck
    exact h.held.receiveRecord frameLaw shape kind (by rw [size]; omega) (by omega)

/-- What a lane receiver gives ends its frame, or takes it over its header decision (R27, R49). -/
theorem command {c : Instr} (h : LanesReach n t) (running : t.running = true)
    (gives : laneVerdictOn n (t.lane n).receiver (t.lane n).reception.frame = some c) (ran : exec c t = .next u) : LanesHeld u := by
  have bad : exec (.laneBadFrame n) t = .next u → LanesHeld u := fun ran => by
    cases (State.event_next running _).symm.trans ran
    exact h.held.laneFrameFails
  cases frame : (t.lane n).reception.frame with
  | nil => rw [frame] at gives; cases gives
  | cons y chars =>
    rw [frame] at gives
    unfold laneVerdictOn at gives
    dsimp only at gives
    split at gives
    · cases gives; exact bad ran
    · rename_i stops
      obtain rfl | ⟨undecided, length, q, x, ck, least, most, rfl⟩ | ⟨l1, l0, q, kind, body, c1, c0, tl, bytes, length, verdict⟩ :=
        laneVerdict_some gives
      · exact bad ran
      · have hunting : (t.lane n).receiver = .hunting := by
          cases receiver : (t.lane n).receiver with
          | hunting => rfl
          | record => rw [receiver] at undecided; cases undecided
        exact h.recordHeader running (h.frame y chars frame stops) hunting least most ran
      · rw [← Reception.bytes_of_frame frame] at bytes
        obtain ⟨rfl, rfl⟩ | ⟨other, rfl⟩ := verdict
        · exact h.recordEnd running bytes length ran
        · have hunting : (t.lane n).receiver = .hunting := by
            cases receiver : (t.lane n).receiver with
            | hunting => rfl
            | record => exact absurd (rest_length h.reach receiver bytes length).1 other
          obtain ⟨k, b, same, code⟩ := goodLaneFrame_exec n kind body t
          cases (same.trans (State.event_next running _)).symm.trans ran
          exact h.held.laneGoodFrame hunting fun record => absurd (code record) other

end LanesReach

/-! ## Every step -/

namespace LineLaw

variable {s t u : State}

theorem of_eq (h : LineLaw s) (reception : t.link.reception = s.link.reception) (lanes : t.lanes = s.lanes)
    (clock : t.clock = s.clock) : LineLaw t :=
  ⟨LinkHeld.of_eq h.1 reception clock, LanesHeld.of_eq h.2 lanes clock⟩

theorem powerOn (pending lines running rate) : LineLaw (.powerOn pending lines running rate) :=
  ⟨LinkHeld.powerOn _ _ _ _, LanesHeld.powerOn _ _ _ _⟩

theorem exec {i : Instr} (ran : Machine.exec i s = .next t) (h : LineLaw s) : LineLaw t :=
  exec_keeps powerOn (fun _ e => ⟨LinkHeld.effect e h.1, LanesHeld.effect e h.2⟩) ran

/-- What the control link receiver takes keeps the law, with the command that it gives. -/
theorem controlReceive {c : Option Instr} (running : s.running = true) (received : s.controlReceive = some (t, c)) (h : LineLaw s) :
    (c = none → LineLaw t) ∧ ∀ i, c = some i → Machine.exec i t = .next u → LineLaw u := by
  unfold State.controlReceive at received
  obtain ⟨⟨x, k, rest⟩, taken, result⟩ := Option.map_eq_some_iff.1 received
  cases result
  have ahead : s.clock ≤ s.controlGapEnd := Nat.le_add_right _ _
  have lanes : LanesHeld { s with
      lines := { s.lines with control := rest }, link := { s.link with reception := k.gather controlSof x } } :=
    LanesHeld.of_eq h.2 rfl rfl
  refine ⟨fun quiet => ⟨Reception.controlHeld_of_none ahead taken h.1 quiet, lanes⟩, fun i gives ran => ?_⟩
  have gap : (k.gather controlSof x).GapLaw s.clock := Reception.gather_gap ahead taken h.1.2.2
  exact controlCommand (by exact running) gap lanes gives ran

/-- What a lane receiver takes keeps the law, with the command that it gives. -/
theorem laneReceive {n : LaneId} {c : Option Instr} (running : s.running = true) (received : s.laneReceive n = some (t, c))
    (h : LineLaw s) : (c = none → LineLaw t) ∧ ∀ i, c = some i → Machine.exec i t = .next u → LineLaw u := by
  unfold State.laneReceive at received
  obtain ⟨⟨x, k, rest⟩, taken, result⟩ := Option.map_eq_some_iff.1 received
  obtain ⟨rfl, rfl⟩ := Prod.mk.inj result
  set t : State := { s with
    lines := { s.lines with lanes := s.lines.lanes.set n rest }
    lanes := s.lanes.set n ({ s.lane n with reception := k.gather laneSof x } : Lane).storePayload }
  have link : LinkHeld t := LinkHeld.of_eq h.1 rfl rfl
  have reach : LanesReach n t := (LanesReach.of_taken taken h.2).of_eq rfl rfl
  have lane : t.lane n = ({ s.lane n with reception := k.gather laneSof x } : Lane).storePayload :=
    (vector_set_get _ _ _ _).trans (if_pos rfl)
  have verdict : laneVerdictOn n (t.lane n).receiver (t.lane n).reception.frame =
      laneVerdictOn n (s.lane n).receiver (k.gather laneSof x).frame := by rw [lane]; rfl
  refine ⟨fun quiet => ⟨link, reach.goesOn (verdict.trans quiet)⟩, fun i gives ran => ⟨?_, ?_⟩⟩
  · exact exec_keeps LinkHeld.powerOn (fun _ e => LinkHeld.effect e link) ran
  · exact reach.command running (verdict.trans gives) ran

/-- What a receiver takes keeps the law, with the command that it gives. -/
theorem receive {c : Option Instr} (received : s.receive = some (t, c)) (h : LineLaw s) :
    (c = none → LineLaw t) ∧ ∀ i, c = some i → Machine.exec i t = .next u → LineLaw u := by
  unfold State.receive at received
  split at received
  · rename_i running
    simp only [Option.orElse_eq_orElse, Option.orElse_eq_or, Option.or_eq_some_iff] at received
    obtain received | ⟨-, received | ⟨-, received | ⟨-, received | ⟨-, received⟩⟩⟩⟩ := received
    · exact controlReceive running received h
    all_goals exact laneReceive running received h
  · cases received

/-- A receiver that has nothing to look at, and no gap that is too long, holds its gap law a microsecond later. -/
theorem gapLaw_elapses {now g : Nat} {line : List Arrival} {k : Reception} (nothing : k.next g line = none)
    (quiet : ¬k.gapPassed now = true) : k.GapLaw (now + 1) := by
  have again : k.again = [] := (Reception.next_eq_none.1 nothing).1
  intro c mem
  rw [again, List.append_nil] at mem
  have notLate : ¬k.Late now := fun late => quiet ((Reception.gapPassed_iff now k).2 late)
  have ahead : ¬c.gapEnd < now := fun late => notLate ⟨again, c, mem, late⟩
  omega

theorem tick (quiet : s.ownEvent = none) (nothing : s.receive = none) (h : LineLaw s) : LineLaw s.tick := by
  cases running : s.running with
  | false =>
    have stands : s.tick.clock = s.clock := by unfold State.tick; rw [running]; rfl
    exact h.of_eq rfl rfl stands
  | true =>
    have passes : s.tick.clock = s.clock + 1 := by unfold State.tick; rw [running]; rfl
    obtain ⟨-, -, -, -, -, gap, laneGap⟩ := TimeParts.none_due running quiet
    unfold State.receive at nothing
    rw [if_pos running] at nothing
    simp only [Option.orElse_eq_orElse, Option.orElse_eq_or, Option.or_eq_none_iff] at nothing
    obtain ⟨control, lane0, lane1, lane2, lane3⟩ := nothing
    have lanes : ∀ n, s.laneReceive n = none := fun n => by fin_cases n <;> assumption
    refine ⟨⟨h.1.1, h.1.2.1, ?_⟩, fun n => ?_⟩
    · rw [passes]
      refine gapLaw_elapses (Option.map_eq_none_iff.1 control) fun late => ?_
      cases (if_pos late).symm.trans gap
    · obtain ⟨frame, gathers, -, transmits⟩ := h.2 n
      refine ⟨frame, gathers, ?_, transmits⟩
      rw [passes]
      refine gapLaw_elapses (Option.map_eq_none_iff.1 (lanes n)) fun late => ?_
      cases (if_pos late).symm.trans (laneGap n)

theorem step (h : LineLaw s) (taken : Machine.step s = .next t) : LineLaw t := by
  unfold Machine.step at taken
  split at taken
  · exact exec taken (h.of_eq rfl rfl rfl)
  · split at taken
    · exact exec taken h
    · split at taken
      · exact (receive ‹_› h).2 _ rfl taken
      · cases taken
        exact (receive (u := s) ‹_› h).1 rfl
      · cases taken
        exact tick ‹_› ‹_› h

end LineLaw

/-- Settles O60: what a receiver gives ends the frame it was gathering, and no gap ends unseen. -/
theorem stepKeepsLineLaw : Obligations.StepKeepsLineLaw := fun _ _ h => h.step

end Sys2Proof.Machine
end

section
/-! The request rows (R161, R162, R187): which row executes a request, and what becomes of one that does not fit. -/
namespace Sys2Proof.Machine

theorem byte_of_code {kind : Byte} {code : Nat} (h : kind.toNat = code) : kind = BitVec.ofNat 8 code := by
  rw [← h, BitVec.ofNat_toNat, BitVec.setWidth_eq]

/-- The row that a request's command is: it executes the request at the head of the queue, when its length fits, or it refuses a
request of unknown kind. -/
inductive RequestRow (r : Frame) (c : Instr) : Prop where
  | block (row : Frame → Bool) (act : Frame → State → State) (known : knownKind r.kind = true) (isRow : row r = true)
    (runs : ∀ s, exec c s = .next (s.withRequest row act))
  | unknown (unknown : knownKind r.kind = false) (runs : c = .unknownRequest)

theorem RequestRow.of_kind {r : Frame} {c : Instr} {kind : Byte} {act : Frame → State → State}
    (runs : ∀ s, exec c s = .next (s.withRequest (fun r => decide (r.kind = kind)) act)) (code : r.kind.toNat = kind.toNat)
    (known : knownKind kind = true) : RequestRow r c :=
  have isKind := BitVec.eq_of_toNat_eq code
  .block _ act (isKind ▸ known) (decide_eq_true isKind) runs

/-- Every command that executes a request is a row of its kind (R161). -/
theorem requestCommand_row {r : Frame} {c : Instr} (h : requestCommand r = some c) : RequestRow r c := by
  unfold requestCommand at h
  split at h
  case h_24 code =>
    have isReset : r.kind = Kind.reset := BitVec.eq_of_toNat_eq code
    have known : knownKind r.kind = true := by rw [isReset]; decide
    cases h
    split
    · rename_i store
      exact .block _ _ known (decide_eq_true ⟨isReset, by rw [store]; decide⟩) fun _ => rfl
    · exact .block _ _ known (decide_eq_true ⟨isReset, ‹_›⟩) fun _ => rfl
  case h_25 =>
    split at h
    · cases h
    · cases h
      exact .unknown (Bool.eq_false_of_not_eq_true ‹_›) rfl
  all_goals
    rename_i code
    cases h
    exact .of_kind (fun _ => rfl) code (by decide)

/-- Where no request can begin its execution, its row leaves the state as it is (log 2). -/
theorem exec_request_idle {r : Frame} {c : Instr} {s : State} (h : requestCommand r = some c) (idle : s.startable = none) :
    exec c s = .next s := by
  cases requestCommand_row h with
  | block row act _ _ runs => rw [runs, State.withRequest_idle idle]
  | unknown _ runs =>
    rw [runs]
    change execUnknownRequest s = _
    unfold execUnknownRequest
    rw [idle]

/-- The length of a request of known kind does not depend on whether its body is empty. -/
theorem knownKind_iff (kind : Byte) (body : List Byte) : (requestLength kind body).isSome = knownKind kind := by
  unfold knownKind requestLength
  split <;> cases body <;> rfl

/-- A request whose body length does not fit its kind, or whose kind is unknown, is refused (R162). -/
theorem exec_misfit {s : State} {r : Frame} {rest : List Frame} {c : Instr} (starts : Starts s r rest)
    (command : requestCommand r = some c) (misfit : requestLength r.kind r.body ≠ some r.body.length) :
    exec c s = .next (s.replied r [if requestLength r.kind r.body = none then 0x14 else 0x15]) := by
  have some := knownKind_iff r.kind r.body
  cases requestCommand_row command with
  | block row act known isRow runs =>
    rw [runs, State.withRequest_badLength starts isRow (decide_eq_false misfit)]
    rw [known, Option.isSome_iff_ne_none] at some
    rw [if_neg some]
    rfl
  | unknown unknown runs =>
    have finished : s.popRequest.finish r [Result.unknownRequest] = s.replied r [Result.unknownRequest] :=
      State.finish_eq r _ s _ rfl
    rw [unknown, Option.isSome_eq_false_iff, Option.isNone_iff_eq_none] at some
    rw [runs, if_pos some]
    change execUnknownRequest s = _
    unfold execUnknownRequest
    rw [starts.startable]
    dsimp only
    rw [unknown, if_neg Bool.false_ne_true, finished]
    rfl

/-- No request begins its execution while one of the conditions of R161 fails. -/
theorem State.startable_none {s : State} (h : s.running = false ∨ s.link.executing ≠ none ∨ 8 ≤ s.link.outbound.length ∨
    s.link.syncWaiting ≠ [] ∨ s.link.resetPending = true ∨ s.link.requests = []) : s.startable = none := by
  refine Option.eq_none_iff_forall_ne_some.2 fun r startable => ?_
  obtain ⟨rest, running, executing, room, syncs, reset, requests⟩ := (State.startable_iff s r).1 startable
  obtain held | busy | full | waiting | pending | empty := h
  · rw [running] at held; cases held
  · exact busy executing
  · omega
  · exact waiting syncs
  · rw [reset] at pending; cases pending
  · rw [requests] at empty; cases empty

/-- The body lengths as they stand in the table of requests (R187). -/
theorem requestLength_table (kind : Byte) (body : List Byte) : requestLength kind body =
    if kind ∈ [0x01, 0x02, 0x04, 0x23, 0x24, 0x58] then some 0
    else if kind ∈ [0x11, 0x12, 0x13, 0x31, 0x32, 0x50, 0x5A] then some 1
    else if kind ∈ [0x03, 0x21, 0x22] then some 2
    else if kind ∈ [0x40, 0x59] then some 3
    else if kind = 0x51 then some 5
    else if kind = 0x10 then some 11
    else if kind = 0x20 then some 12
    else if kind = 0x30 then some 13
    else if kind ∈ [0x41, 0x42, 0x43] then some (1 + 2 * (body.headD 0).toNat)
    else none := by
  unfold requestLength
  split
  case h_26 => simp_all [← BitVec.toNat_inj]
  all_goals
    rename_i code
    rw [byte_of_code code]
    cases body <;> rfl

/-- Settles O13: a request's row is found by its kind, and the row itself compares the length. -/
theorem misfitRequestIsRefused : Obligations.MisfitRequestIsRefused :=
  ⟨requestLength_table, fun _ _ _ _ => exec_misfit, fun _ => rfl,
    fun _ _ _ command idle => exec_request_idle command (State.startable_none idle)⟩

end Sys2Proof.Machine
end

section
/-! Steps and the resets of the part (R169, R175, R176, R178, R179). -/
namespace Sys2Proof.Machine

/-! ## Steps -/

/-- Settles O1: the cases of a step. -/
theorem stepTakesFrontCommand : Obligations.StepTakesFrontCommand := by
  refine ⟨fun c rest s front => ?_, fun s idle => ?_⟩
  · unfold step
    rw [front]
  · unfold step
    split
    · rename_i front
      cases idle.symm.trans front
    · rfl

/-- The effects on the Notice Unit leave the command queue alone. -/
theorem NoticeEffect.pending {s t : State} (h : NoticeEffect s t) : t.pending = s.pending := by
  cases h with
  | noticeAck => rw [noticeAckAct_eq]
  | noticeConfig body =>
    unfold noticeConfigAct
    split
    · rfl
    · rename_i enable interval watermark _
      have side : LaneSide { s with notice := { s.notice with enabled := enable, interval := interval } } _ :=
        .setWatermark (w := watermark) (.refl _)
      exact side.pending
  | renew | hold => rfl

/-- The command queue and the bit rate are those of another state. -/
def SameSource (s t : State) : Prop := t.pending = s.pending ∧ t.link.bitRate = s.link.bitRate

theorem LinkFlow.source {s t : State} (flow : LinkFlow s t) : SameSource s t := by
  cases flow with
  | link k same => exact ⟨rfl, same.bitRate⟩
  | count | listen | raise | syncNotice | beginNotice | config => exact ⟨rfl, rfl⟩

/-- No effect reaches the command queue or the bit rate (R179). -/
theorem Effect.source {s t : State} (e : Effect s t) : SameSource s t := by
  have step : ∀ {u v : State}, SameSource s u → SameSource u v → SameSource s v := fun h k => ⟨k.1.trans h.1, k.2.trans h.2⟩
  have link : ∀ u v, LinkFlow u v → SameSource s u → SameSource s v := fun _ _ flow h => step h flow.source
  refine e.keeps_line (P := SameSource s) link (fun _ => ⟨rfl, rfl⟩) (fun _ _ _ _ h => h) ?lane ?queue ?notice ?reset ?counters
    ?walk ⟨rfl, rfl⟩
  case lane => exact fun u v e h => step h ⟨e.side.pending, by rw [e.side.link]⟩
  case queue => exact fun u v e h => step h ⟨e.side.pending, by rw [e.side.link]⟩
  case notice => exact fun u v e h => step h ⟨e.pending, by rw [e.link]⟩
  case reset =>
    refine fun u h => step h ⟨u.storeReset_side.pending, ?_⟩
    rw [u.storeReset_side.link]
    rfl
  case counters => exact fun u g h => step h (by cases g <;> exact ⟨rfl, rfl⟩)
  case walk =>
    intro w _ h
    have handed : SameSource s ((s.decided w).handOn (s.classifier.active.judge w.record).2 w.record) :=
      State.handOn_keeps (fun _ _ h => h) (fun _ _ side h => step h ⟨side.pending, by rw [side.link]⟩) _ _ h
    exact State.takeCommit_keeps link (fun _ _ _ _ h => h) handed

/-- No command faults, and none is refused. -/
theorem exec_next (c : Instr) (s : State) : ∃ t, exec c s = .next t := by
  cases c <;> exact ⟨_, rfl⟩

/-- Settles O2, by the effects of the commands; the release of RESETN alone sets the bit rate. -/
theorem everyCommandCompletes : Obligations.EveryCommandCompletes := by
  intro c s
  obtain ⟨t, ran⟩ := exec_next c s
  refine ⟨t, ran, ?_⟩
  by_cases release : ∃ b1 b0, c = .resetnRelease b1 b0
  · obtain ⟨b1, b0, rfl⟩ := release
    cases ran
    exact ⟨rfl, fun notRelease => absurd rfl (notRelease b1 b0)⟩
  · have effect := exec_effect (fun b1 b0 same => release ⟨b1, b0, same⟩) ran
    exact ⟨effect.source.1, fun _ => effect.source.2⟩

/-! ## Power-on values -/

theorem Queue.powerOn_atPowerOn (q : QueueId) : (Queue.powerOn (decide (q = 0))).AtPowerOn q :=
  ⟨rfl, rfl, rfl, rfl, rfl, rfl, rfl, rfl, rfl, rfl, rfl, rfl, rfl, rfl⟩

theorem RuleBank.powerOn_atPowerOn : RuleBank.powerOn.AtPowerOn := ⟨fun i => Vector.getElem_replicate i.isLt, rfl, rfl⟩

/-- Every block at its power-on values (R20, R46, R92, R112, R134, R150, R169, R178). -/
theorem atPowerOn (pending lines running rate) : AtPowerOn (.powerOn pending lines running rate) := by
  refine ⟨rfl, fun n => ?_, ⟨rfl, rfl, rfl, rfl, rfl, ?_⟩,
    ⟨rfl, rfl, rfl, RuleBank.powerOn_atPowerOn, RuleBank.powerOn_atPowerOn, rfl, fun i => ?_, rfl⟩, fun q => ?_, fun i => ?_, ?_,
    ⟨rfl, rfl, rfl, rfl, rfl, rfl, fun q => ?_, rfl, rfl⟩, rfl, rfl, rfl, rfl, rfl, rfl, rfl, rfl, rfl, rfl, rfl, rfl, rfl, rfl⟩
  · rw [State.lane_powerOn]
    decide
  · unfold State.reserved
    simp only [State.lane_powerOn]
    decide
  · exact Vector.getElem_replicate i.isLt
  · rw [State.queue_powerOn]
    exact Queue.powerOn_atPowerOn q
  · rw [State.slot_powerOn]
    rfl
  · simp [State.outstanding, State.powerOn, Slot.powerOn]
  · exact Vector.getElem_replicate q.isLt

/-- Settles O4: every law's own lemma about power-on. -/
theorem resetStateAtPowerOnKeepsLaws : Obligations.ResetStateAtPowerOnKeepsLaws :=
  ⟨rfl, rfl, atPowerOn _ _ _ _, CreditLaw.powerOn _ _ _ _, MemoryLaw.powerOn _ _ _ _, ChargeLaw.powerOn _ _ _ _,
    LevelLaw.powerOn _ _ _ _, RulesLaw.powerOn _ _ _ _, LinkLaw.powerOn _ _ _ _, NoticeLaw.powerOn _ _ _ _,
    (timeLaw_iff _).2 (TimeParts.powerOn _ _ _ _), (rangeLaw_iff _).2 (RangeParts.powerOn _ _ _ _), FieldLaw.powerOn _ _ _ _,
    OrderLaw.powerOn _ _ _ _, LineLaw.powerOn _ _ _ _⟩

/-- While RESETN is low no event is taken and no request begins (R179). -/
theorem exec_held {s : State} (held : s.running = false) {c : Instr} (notAssert : c ≠ .resetnAssert)
    (notRelease : ∀ b1 b0, c ≠ .resetnRelease b1 b0) : exec c s = .next s := by
  have event : ∀ f, s.event f = .next s := fun f => by unfold State.event; rw [held]; rfl
  have idle : s.startable = none := State.startable_none (.inl held)
  have row : ∀ row act, (.next (s.withRequest row act) : Result) = .next s := fun row act => by rw [State.withRequest_idle idle]
  cases c with
  | resetnAssert => exact absurd rfl notAssert
  | resetnRelease b1 b0 => exact absurd rfl (notRelease b1 b0)
  | unknownRequest =>
    change execUnknownRequest s = _
    unfold execUnknownRequest
    rw [idle]
  | ident | linkConfig | clearError | laneConfig | laneOpen | laneClose | laneAbort | ruleSet | ruleGet | defaultSet | rulesCommit
  | rulesRevert | queueConfig | queueGet | queuePurge | fetch | release | returnHandles | extend | noticeAck | noticeConfig
  | status | counters | resetPart | resetStore => exact row _ _
  | recordHeader n length seqByte h check =>
    change execRecordHeader n length seqByte h check s = _
    unfold execRecordHeader
    exact event _
  | recordEnd n rest crc =>
    change execRecordEnd n rest crc s = _
    unfold execRecordEnd
    exact event _
  | probeWindowExpiry n =>
    change execProbeWindowExpiry n s = _
    unfold execProbeWindowExpiry
    exact event _
  | laneFrameSent n =>
    change execLaneFrameSent n s = _
    unfold execLaneFrameSent
    exact event _
  | walkEnd =>
    change execWalkEnd s = _
    unfold execWalkEnd
    exact event _
  | leaseExpiry i =>
    change execLeaseExpiry i s = _
    unfold execLeaseExpiry
    exact event _
  | _ => exact event _

/-- Settles O3: RESETN low brings power-on values and stops every event; its release starts the part from them. -/
theorem resetnHoldsAndStartsThePart : Obligations.ResetnHoldsAndStartsThePart := by
  refine ⟨fun s => ⟨⟨_, rfl, rfl, atPowerOn _ _ _ _⟩, fun held c => exec_held held, fun held idle => ?_⟩,
    fun s b1 b0 => ⟨_, rfl, rfl, atPowerOn _ _ _ _, ?_⟩⟩
  · have quiet : s.ownEvent = none := by unfold State.ownEvent; rw [held]; rfl
    have deaf : s.receive = none := by unfold State.receive; rw [held]; rfl
    rw [stepTakesFrontCommand.2 s idle, quiet, deaf]
    dsimp only
    rw [held]
    rfl
  · cases b1 <;> cases b0 <;> rfl

/-! ## The PART reset -/

/-- After RESET(PART) a good frame is counted and discarded (R169, R176). -/
theorem frameArrives_discarded {s : State} (f : Frame) (pending : s.link.resetPending = true) :
    s.frameArrives f = { s with link := s.link.heard } := by
  rw [State.frameArrives_eq]
  exact if_pos pending

theorem requestLength_reset (body : List Byte) : requestLength 0x5A body = some 1 := rfl

/-- Settles O5: the execution sets the mark alone, and the end of its response is the reset. -/
theorem partResetInTwoStages : Obligations.PartResetInTwoStages := by
  refine ⟨fun s r rest scope starts kind body => ?_, fun s f running sending => ?_, fun s seq kind body running pending => ?_,
    fun s r rest c pending _ command => exec_request_idle command (State.startable_none (by simp [pending]))⟩
  · have length : bodyLengthOk r = true := by
      rw [bodyLengthOk, kind, body]
      exact decide_eq_true (requestLength_reset _)
    have isKind : r.kind = Kind.reset := kind
    have single : ∀ {b : Byte}, scope ≠ b → r.body ≠ [b] := fun other same =>
      other (List.head_eq_of_cons_eq (body.symm.trans same))
    have part : scope ≠ 1 → exec .resetPart s = .next (resetPartRequest r s.popRequest) := fun other =>
      congrArg _ (State.withRequest_starts starts (decide_eq_true ⟨isKind, single other⟩) length)
    have refused : resetRefused r s.popRequest = s.replied r [0x20] := State.finish_eq r _ s _ rfl
    refine ⟨?_, fun notPart notStore => ⟨?_, ?_⟩⟩
    · rintro rfl
      rw [part (by decide)]
      unfold resetPartRequest
      rw [if_pos body]
      have answered := State.finishWith_concluded .resetResponse r [Result.ok]
        { s.popRequest with link := { s.popRequest.link with resetPending := true } }
      exact congrArg _ answered
    · rw [part notStore]
      unfold resetPartRequest
      rw [if_neg (single notPart), refused]
    · have store : exec .resetStore s = .next (resetStoreRequest r s.popRequest) :=
        congrArg _ (State.withRequest_starts starts (decide_eq_true ⟨isKind, single notPart⟩) length)
      rw [store]
      unfold resetStoreRequest
      rw [if_neg (single notStore), refused]
  · refine ⟨s.partReset, ?_, ?_, rfl, atPowerOn _ _ _ _, rfl⟩
    · have due : s.sendingReset = true := by unfold State.sendingReset; rw [sending]
      exact (State.event_next running _).trans (congrArg _ (if_pos due))
    · refine (State.event_next running _).trans (congrArg _ ?_)
      unfold State.frameSent
      rw [sending]
  · exact ⟨(State.event_next running _).trans (congrArg _ (frameArrives_discarded _ pending)),
      (State.event_next running _).trans (congrArg _ (frameArrives_discarded _ pending))⟩

end Sys2Proof.Machine
end

section
/-! The control link: link errors, good frames, SYNC, and the link's own requests (R153 to R167). -/
namespace Sys2Proof.Machine

/-- Settles O8, by evaluation. -/
theorem crcCheckValuesAndProbePatterns : Obligations.CrcCheckValuesAndProbePatterns :=
  ⟨⟨by decide +kernel, by decide +kernel⟩, by decide, by decide, by decide, by decide, fun _ => rfl⟩

variable {s : State} {f : Frame}

/-! ## Link errors (R153, R154) -/

/-- What the taking of a link error changes. -/
theorem State.linkErrorTaken_eq (count : LinkCounters → LinkCounters) (s : State) : s.linkErrorTaken count = { s with
    link := { s.link with
      errorFlag := true
      counters := count s.link.counters
      reception := s.link.reception.failed
      state := if s.link.mode = .strict ∧ s.link.state = .opened then .halted else s.link.state }
    notice := s.notice.raise .linkError 0 s.synced } := by
  rw [← Reception.rehunt_eq]
  unfold State.linkErrorTaken
  by_cases halts : s.link.mode = .strict ∧ s.link.state = .opened
  · refine (if_pos halts).trans ?_
    rw [if_pos halts]
    rfl
  · refine (if_neg halts).trans ?_
    rw [if_neg halts]
    rfl

/-- Settles O9. -/
theorem linkErrorIsTaken : Obligations.LinkErrorIsTaken := by
  intro s running
  have taken : ∀ count, s.event (State.linkErrorTaken count) = .next _ := fun count =>
    (State.event_next running _).trans (congrArg _ (State.linkErrorTaken_eq count s))
  have gap : exec .gapError s = .next (if s.link.reception.gapPassed s.clock = true then
      s.linkErrorTaken fun c => { c with gapErrors := bump c.gapErrors } else s) := State.event_next running _
  refine ⟨taken _, taken _, taken _, fun late => ?_, fun onTime => ?_⟩
  · rw [gap, if_pos ((Reception.gapPassed_iff _ _).2 late), State.linkErrorTaken_eq]
  · rw [gap, if_neg fun passed => onTime ((Reception.gapPassed_iff _ _).1 passed)]

/-! ## Good frames (R158 to R160, R163, R164) -/

/-- A good frame other than a SYNC is taken by the state of the link (R158, R159). -/
theorem exec_controlFrameReceived (running : s.running = true) (taken : s.link.resetPending = false) (other : f.kind ≠ 0x01) :
    exec (.controlFrameReceived f.seq f.kind f.body) s = .next (match s.link.state with
      | .unsynced => ({ s with link := s.link.heard } : State).takeUnsynced f
      | .opened | .halted => ({ s with link := s.link.heard } : State).takeSynced f) := by
  refine (State.event_next running _).trans (congrArg _ ?_)
  rw [State.frameArrives_eq]
  dsimp only
  rw [taken, if_neg Bool.false_ne_true, if_neg other] <;> rfl

/-- Settles O11: the frame's answer is made at its arrival. -/
theorem unsyncedFrameIsAnswered : Obligations.UnsyncedFrameIsAnswered := by
  intro s f running taken other unsynced
  rw [exec_controlFrameReceived running taken other, unsynced]
  dsimp only
  refine congrArg _ ?_
  unfold State.takeUnsynced
  split
  · rename_i ident
    have isIdent : f.kind = 0x02 := ident
    rw [if_pos isIdent, State.answer_eq, isIdent]
    rfl
  · rename_i other
    rw [if_neg (show ¬f.kind = 0x02 from other)]
    exact State.answer_eq _ _ _

/-- What a HALTED link still takes (R160). -/
theorem takenWhileHalted_false_iff (kind : Byte) : State.takenWhileHalted kind = false ↔
    kind ≠ 0x58 ∧ kind ≠ 0x02 ∧ kind ≠ 0x04 := by
  unfold State.takenWhileHalted
  simp only [Bool.or_eq_false_iff, decide_eq_false_iff_not, and_assoc]
  rfl

/-- A new request is refused in HALTED, queued, or answered BUSY (R158, R160). -/
theorem State.takeNew_eq (f : Frame) (s : State) : s.takeNew f = { s with
    link := if s.link.state = .halted ∧ f.kind ≠ 0x58 ∧ f.kind ≠ 0x02 ∧ f.kind ≠ 0x04 then
      s.link.answeredAtArrival ⟨f.seq, responseKind f.kind, [0x13]⟩ fun c => { c with refusedAnswers := bump c.refusedAnswers }
    else if s.link.requests.length < 4 then { s.link with requests := s.link.requests ++ [f], expected := some (f.seq + 1) }
    else s.link.answeredAtArrival ⟨f.seq, responseKind f.kind, [0x10]⟩ fun c => { c with busyAnswers := bump c.busyAnswers } } := by
  unfold State.takeNew
  simp only [takenWhileHalted_false_iff]
  split
  · exact State.answer_eq _ _ _
  · split
    · rfl
    · exact State.answer_eq _ _ _

theorem State.inHand_iff (seq : Byte) (s : State) : s.inHand seq = true ↔
    seq ∈ s.link.requests.map Frame.seq ∨ seq ∈ s.link.executing.toList.map Frame.seq := by
  unfold State.inHand
  simp only [Bool.or_eq_true, List.any_eq_true, decide_eq_true_eq, List.mem_map]
  cases s.link.executing <;> simp

theorem State.cachedWaits_iff (f : Frame) (s : State) : s.cachedWaits f = true ↔ f ∈ s.link.outbound.map OutFrame.frame := by
  simp [State.cachedWaits]

/-- A retransmission is answered from the reply cache, unless its answer still waits (R163). -/
theorem State.resend_eq (f : Frame) (s : State) : s.resend f = { s with
    link := if f ∈ s.link.outbound.map OutFrame.frame then s.link
    else s.link.answeredAtArrival f fun c => { c with resent := bump c.resent } } := by
  unfold State.resend
  simp only [State.cachedWaits_iff]
  split
  · rfl
  · exact State.answer_eq _ _ _

/-- Settles O10: the cases of R158, each as one write of the link. -/
theorem frameIsClassifiedBySequence : Obligations.FrameIsClassifiedBySequence := by
  intro s f x running taken other synced expected
  have classified : exec (.controlFrameReceived f.seq f.kind f.body) s =
      .next (({ s with link := s.link.heard } : State).takeSynced f) := by
    rw [exec_controlFrameReceived running taken other]
    cases state : s.link.state with
    | unsynced => exact absurd state synced
    | opened | halted => rfl
  rw [classified]
  refine congrArg _ ?_
  have heard : ({ s with link := s.link.heard } : State).link.expected = some x := expected
  unfold State.takeSynced
  rw [heard]
  simp only [Option.some.injEq, eq_comm (a := x), State.inHand_iff]
  split
  · rename_i isNext
    rw [State.takeNew_eq, isNext]
    rfl
  · rename_i notNext
    by_cases inHand : f.seq ∈ s.link.requests.map Frame.seq ∨ f.seq ∈ s.link.executing.toList.map Frame.seq
    · exact (if_pos inHand).trans (by rw [if_pos inHand])
    · refine (if_neg inHand).trans ?_
      rw [if_neg inHand]
      change (match s.link.cache.find? fun e => decide (e.seq = f.seq) with | some e => _ | none => _) = _
      cases s.link.cache.find? fun e => decide (e.seq = f.seq) with
      | some e => exact State.resend_eq _ _
      | none => exact State.answer_eq _ _ _

end Sys2Proof.Machine
end

section
/-! SYNC, the transmitter and the notice frame, and the link's own requests (R142, R149, R156, R157, R165 to R167, R191). -/
namespace Sys2Proof.Machine

variable {s : State}

/-! ## SYNC (R149, R166) -/

/-- In QUIET, with the link synchronised, a wanted notice is requested at once (R141). -/
theorem Notice.request_quiet {n : Notice} (quiet : n.state = .quiet) :
    n.request true = { n with state := if n.wanted = true ∧ n.enabled = true then .waitingLink else .quiet } := by
  unfold Notice.request
  by_cases wanted : n.wanted = true ∧ n.enabled = true
  · rw [if_pos ⟨quiet, wanted.1, wanted.2, rfl⟩, if_pos wanted]
  · rw [if_neg fun all => wanted ⟨all.2.1, all.2.2.1⟩, if_neg wanted, ← quiet]

/-- The link after SYNC is not UNSYNCED. -/
theorem synced_after_sync (x : LinkState) : decide ((if x = .unsynced then LinkState.opened else x) ≠ .unsynced) = true := by
  cases x <;> rfl

/-- The Notice Unit at SYNC (R149). -/
theorem State.syncNotice_eq (synced : s.synced = true) : s.syncNotice = { s with notice :=
    let n : Notice := { s.notice with
      state := .quiet
      snapshot := none
      renotice := none
      dirty := false
      levels := eachQueue fun q => syncLevel (s.queue q).config (s.queue q).queued s.clock }
    { n with state := if n.wanted = true ∧ n.enabled = true then .waitingLink else .quiet } } := by
  unfold State.syncNotice State.requestNotice
  change ({ s with notice := Notice.request s.synced _ } : State) = _
  rw [synced, Notice.request_quiet rfl]

/-- A SYNC at its arrival (R164, R166). -/
theorem State.syncArrives_eq (seq : Byte) (body : List Byte) (s : State) : s.syncArrives seq body =
    if body ≠ [] then
      { s with link := s.link.answeredAtArrival ⟨seq, 0x81, [0x15]⟩ fun c => { c with refusedAnswers := bump c.refusedAnswers } }
    else if s.link.executing ≠ none then { s with link := { s.link with syncWaiting := s.link.syncWaiting ++ [seq] } }
    else if 8 ≤ s.link.outbound.length then
      { s with link := { s.link with counters := { s.link.counters with answersDropped := bump s.link.counters.answersDropped } } }
    else s.syncStep seq := by
  unfold State.syncArrives
  split
  · exact State.answer_eq _ _ _
  · cases executing : s.link.executing with
    | some r => rfl
    | none =>
      have room : s.answerRoom = decide (s.link.outbound.length < 8) := by unfold State.answerRoom; rw [executing]; rfl
      simp only [Option.isSome_none, Bool.false_eq_true, if_false, ne_eq, not_true_eq_false, State.takeSync, room,
        decide_eq_true_eq]
      by_cases full : 8 ≤ s.link.outbound.length
      · rw [if_pos full, if_neg (Nat.not_lt.2 full)]
        rfl
      · rw [if_neg full, if_pos (Nat.lt_of_not_le full)]

/-- Settles O12. -/
theorem syncIsTaken : Obligations.SyncIsTaken := by
  intro s seq body running taken
  have arrives : exec (.sync seq body) s = .next (({ s with link := s.link.heard } : State).syncArrives seq body) := by
    refine (State.event_next running _).trans (congrArg _ ?_)
    rw [State.frameArrives_eq]
    dsimp only
    rw [taken]
    rfl
  refine ⟨rfl, arrives.trans (congrArg _ ((State.syncArrives_eq _ _ _).trans ?_))⟩
  refine if_congr Iff.rfl rfl (if_congr Iff.rfl rfl (if_congr Iff.rfl rfl ?_))
  unfold State.syncStep
  dsimp only
  rw [State.syncNotice_eq, State.place_eq]
  · rfl
  · exact synced_after_sync _

/-! ## The transmitter (R142, R165) -/

/-- A mask built queue by queue has the bit of each queue whose flag is set. -/
theorem queueMask_getLsbD_foldl (v : Vector Bool 8) (qs : List QueueId) (m : Byte) (q : QueueId) :
    (qs.foldl (fun m q => if v[q] then m ||| queueBit q else m) m).getLsbD q.val = (m.getLsbD q.val || (v[q] && decide (q ∈ qs))) := by
  have bit : ∀ p q : QueueId, (queueBit p).getLsbD q.val = decide (q = p) := by decide
  induction qs generalizing m with
  | nil => simp
  | cons p rest ih =>
    rw [List.foldl_cons, ih]
    by_cases flag : v[p] = true
    · rw [if_pos flag, BitVec.getLsbD_or, bit]
      by_cases same : q = p
      · subst same
        simp [flag]
      · simp [same]
    · rw [if_neg flag]
      by_cases same : q = p
      · subst same
        simp [flag]
      · simp [same]

theorem queueMask_getLsbD (v : Vector Bool 8) (q : QueueId) : (queueMask v).getLsbD q.val = v[q] := by
  unfold queueMask
  rw [queueMask_getLsbD_foldl, decide_eq_true (mem_allQueues q)]
  simp

/-- Without a notice that waits and an idle transmitter nothing begins (R165). -/
theorem State.serveNotice_idle (busy : ¬(s.link.sending = none ∧ s.link.outbound = [] ∧ s.noticeWaits = true)) :
    s.serveNotice = s := if_neg busy

theorem State.noticeWaits_iff : s.noticeWaits = true ↔ s.notice.state = .waitingLink ∧ s.link.resetPending = false := by
  simp [State.noticeWaits]

/-- Settles O14: the transmitter takes the oldest response first, and a notice begins with the snapshot of that moment. -/
theorem transmitterChoosesAndNoticeBegins : Obligations.TransmitterChoosesAndNoticeBegins := by
  refine ⟨fun s f running sending ordinary => ?_, fun s running idle => ⟨fun empty waiting taken => ?_, fun none => ?_⟩,
    fun sn => ?_⟩
  · have sent : exec .controlFrameSent s = .next (({ s with link := { s.link with sending := none } } : State).pump).serveNotice := by
      refine (State.event_next running _).trans (congrArg _ ?_)
      unfold State.frameSent
      rw [sending]
      cases f with
      | resetResponse => cases ordinary
      | response | notice => rfl
    rw [sent]
    cases outbound : s.link.outbound with
    | nil =>
      have pumped : ({ s with link := { s.link with sending := none } } : State).pump =
          { s with link := { s.link with sending := none } } := by unfold State.pump; dsimp only; rw [outbound]
      rw [pumped]
      exact (State.event_next (s := { s with link := { s.link with sending := none } }) running _).symm
    | cons g rest =>
      have pumped : ({ s with link := { s.link with sending := none } } : State).pump =
          { s with link := { s.link with sending := some g, outbound := rest } } := by unfold State.pump; dsimp only; rw [outbound]
      rw [pumped]
      exact congrArg _ (State.serveNotice_idle fun all => nomatch all.1)
  · refine ⟨s.takeSnapshot, (State.event_next running _).trans (congrArg _ ?_), fun q => ⟨mapVec_get _ _ q, mapVec_get _ _ q⟩,
      rfl, rfl, rfl, fun n => mapVec_get _ _ n, rfl, rfl, rfl⟩
    exact if_pos ⟨idle, empty, State.noticeWaits_iff.2 ⟨waiting, taken⟩⟩
  · refine (State.event_next running _).trans (congrArg _ (State.serveNotice_idle fun all => none ?_))
    exact ⟨all.2.1, State.noticeWaits_iff.1 all.2.2⟩
  · refine ⟨queueMask sn.due, queueMask_getLsbD sn.due, ?_⟩
    unfold Snapshot.body
    rw [vector_toList_eq_map, vector_toList_eq_map, List.flatMap_map, List.map_map]
    rfl

/-! ## The link's own requests (R156, R157, R167) -/

theorem linkConfigArg_eq (mode gap : Byte) : linkConfigArg [mode, gap] =
    if 1 < mode.toNat ∨ gap = 0 then none else some (if mode = 0 then .strict else .tolerant, gap.toNat) := by
  have code : ∀ b : Byte, mode = b ↔ mode.toNat = b.toNat := fun b => BitVec.toNat_inj.symm
  unfold linkConfigArg
  dsimp only
  by_cases zero : gap = 0
  · rw [if_pos zero, if_pos (.inr zero)]
  · rw [if_neg zero]
    by_cases strict : mode = 0
    · subst strict
      rw [if_pos rfl, if_neg (not_or.2 ⟨by decide, zero⟩)]
      rfl
    · by_cases tolerant : mode = 1
      · subst tolerant
        rw [if_neg strict, if_pos rfl, if_neg (not_or.2 ⟨by decide, zero⟩)]
        rfl
      · have most : 1 < mode.toNat := by
          have notZero : mode.toNat ≠ 0 := fun same => strict ((code 0).2 same)
          have notOne : mode.toNat ≠ 1 := fun same => tolerant ((code 1).2 same)
          omega
        rw [if_neg strict, if_neg tolerant, if_pos (.inl most)]

/-- Settles O15. -/
theorem linkRequestsAreExecuted : Obligations.LinkRequestsAreExecuted := by
  refine ⟨fun s r rest starts kind body => ?_, fun s r rest mode gap starts kind body => ?_, fun s r rest starts kind body => ?_⟩
  · have length : bodyLengthOk r = true := by simp [bodyLengthOk, kind, body, requestLength]
    exact State.request_answered starts kind length rfl
  · have length : bodyLengthOk r = true := by simp [bodyLengthOk, kind, body, requestLength]
    have executed : exec .linkConfig s = .next ((linkConfigAct [mode, gap] s.popRequest).1.finish r
        (linkConfigAct [mode, gap] s.popRequest).2) := by
      rw [← body]
      exact State.request_starts starts kind length
    rw [executed]
    unfold linkConfigAct
    rw [linkConfigArg_eq]
    refine congrArg _ ?_
    by_cases refused : 1 < mode.toNat ∨ gap = 0
    · rw [if_pos refused, if_pos refused]
      exact State.finishWith_concluded _ _ _ _
    · rw [if_neg refused, if_neg refused]
      exact State.finishWith_concluded _ _ _ _
  · have length : bodyLengthOk r = true := by simp [bodyLengthOk, kind, body, requestLength]
    refine (State.request_starts starts kind length).trans (congrArg _ ?_)
    exact State.finishWith_concluded _ _ _ _

end Sys2Proof.Machine
end

section
/-! The frames of a lane that are no good, or not expected, and what a lane transmitter keeps (R27 to R30, R64 to R67). -/
namespace Sys2Proof.Machine

section
variable {s : State} {n : LaneId} {kind : Byte} {body : List Byte}

/-! ## Frames that are not expected (R28) -/

theorem State.protocolError_eq (n : LaneId) (s : State) : s.protocolError n =
    let l := (s.lane n).heard s.clock
    { s with lanes := s.lanes.set n { l with
      counters := { l.counters with protocolErrors := bump l.counters.protocolErrors } } } := by
  unfold State.protocolError
  simp only [Lane.goodFrame_eq]
  rfl

/-- A frame that R28 lets stand nowhere else is a protocol error, but for a CLOSE_ACK that comes to a lane already DOWN. -/
theorem State.laneGoodFrame_unexpected (hunting : (s.lane n).receiver = .hunting)
    (echo : ¬(kind = 0x11 ∧ body.length = 11 ∧ (s.lane n).state = .probing))
    (session : ¬((kind = 0x12 ∨ (kind = 0x13 ∧ body.length = 2) ∨ (kind = 0x03 ∧ body = [])) ∧ (s.lane n).inSession = true))
    (closing : ¬(kind = 0x04 ∧ body = [] ∧ (s.lane n).state = .closing)) :
    s.laneGoodFrame n kind body =
      if kind = 0x04 ∧ body = [] ∧ (s.lane n).state = .down then s.mapLane n (Lane.goodFrame s.clock)
      else s.protocolError n := by
  have unlessCloseAck (other : kind ≠ 0x04) : (if kind = 0x04 ∧ body = [] ∧ (s.lane n).state = .down then
      s.mapLane n (Lane.goodFrame s.clock) else s.protocolError n) = s.protocolError n :=
    if_neg fun ⟨isCloseAck, _⟩ => other isCloseAck
  unfold State.laneGoodFrame
  dsimp only
  rw [if_neg (not_not.mpr hunting)]
  split
  case isTrue isEcho =>
    rw [unlessCloseAck (by rw [isEcho]; decide)]
    split
    · exact if_neg fun probing => echo ⟨isEcho, rfl, probing⟩
    · rfl
  split
  case isTrue isKeepalive =>
    rw [unlessCloseAck (by rw [isKeepalive]; decide)]
    split
    · exact if_neg fun inSession => session ⟨.inr (.inl ⟨isKeepalive, rfl⟩), inSession⟩
    · rfl
  split
  case isTrue isClose =>
    rw [unlessCloseAck (by rw [isClose]; decide)]
    exact if_neg fun ⟨empty, inSession⟩ => session ⟨.inr (.inr ⟨isClose, empty⟩), inSession⟩
  split
  case isTrue isCloseAck =>
    by_cases empty : body = []
    · rw [if_neg (not_not.mpr empty)]
      cases state : (s.lane n).state with
      | down => exact (if_pos ⟨isCloseAck, empty, rfl⟩).symm
      | closing => exact absurd ⟨isCloseAck, empty, state⟩ closing
      | probing | active | failed => exact (if_neg fun ⟨_, _, down⟩ => LaneState.noConfusion down).symm
    · rw [if_pos empty]
      exact (if_neg fun ⟨_, isEmpty, _⟩ => empty isEmpty).symm
  case isFalse notCloseAck =>
    rw [unlessCloseAck notCloseAck]
    split
    case isTrue isRecord => exact if_neg fun inSession => session ⟨.inl isRecord, inSession⟩
    · rfl

end

/-- Settles O20: the row of each kind is the row of a frame of that kind and body, and what no rule expects is a protocol
error. -/
theorem laneFrameTakenByKindOrProtocolError : Obligations.LaneFrameTakenByKindOrProtocolError := by
  refine ⟨fun s n index pattern next => ⟨rfl, rfl, rfl, rfl⟩, fun s n kind body hears echo session closing => ?_⟩
  obtain ⟨running, hunting⟩ := hears
  refine (State.event_next running _).trans (congrArg _ ?_)
  rw [State.laneGoodFrame_unexpected hunting echo session closing, State.mapLane_goodFrame, State.protocolError_eq]
  dsimp only
  by_cases down : kind = 0x04 ∧ body = [] ∧ (s.lane n).state = .down
  · rw [if_pos down, if_pos (show kind = 0x04 ∧ body = [] ∧ ((s.lane n).heard s.clock).state = .down from down)]
    rfl
  · rw [if_neg down, if_neg (show ¬(kind = 0x04 ∧ body = [] ∧ ((s.lane n).heard s.clock).state = .down) from down)]

/-! ## Frames that fail (R27, R61) -/

/-- What the failure of a frame does, as the rules name it (R27, R61). -/
theorem State.laneFrameFails_eq (n : LaneId) (s : State) : s.laneFrameFails n =
    match (s.lane n).receiver, (s.lane n).assembly with
    | .record _ _ _, some r =>
      (({ s with
        store := s.store.free r
        lanes := s.lanes.set n { s.lane n with
          assembly := none
          pendingMissing := min ((s.lane n).pendingMissing + 1) 65535
          counters := { (s.lane n).counters with
            crcErrors := bump (s.lane n).counters.crcErrors
            missingTotal := bump (s.lane n).counters.missingTotal } } } : State).badFramed n).windowTested n
    | _, _ => s.badFramed n := by
  unfold State.laneFrameFails
  cases (s.lane n).receiver <;> cases (s.lane n).assembly <;> simp only [State.recordBad_eq, State.badFrame_eq]

/-- Settles O21: the frame fails at once, or when its gap is over. -/
theorem badLaneFrameIsCounted : Obligations.BadLaneFrameIsCounted := by
  intro s n running l after
  have fails : s.laneFrameFails n = after := State.laneFrameFails_eq n s
  have gap : exec (.laneCharGapExpiry n) s =
      .next (if (s.lane n).reception.gapPassed s.clock then s.laneFrameFails n else s) := State.event_next running _
  refine ⟨(State.event_next running _).trans (congrArg _ fails), fun late => ?_, fun onTime => ?_⟩
  · rw [gap, if_pos ((Reception.gapPassed_iff _ _).2 late), fails]
  · rw [gap, if_neg fun passed => onTime ((Reception.gapPassed_iff _ _).1 passed)]

/-! ## The lane transmitter (R30, R33, R64, R67) -/

theorem any_probe_iff (waiting : List LaneFrame) :
    waiting.any LaneFrame.isProbe = true ↔ ∃ k, LaneFrame.probe k ∈ waiting := by
  rw [List.any_eq_true]
  refine ⟨fun ⟨f, mem, probe⟩ => ?_, fun ⟨k, mem⟩ => ⟨_, mem, rfl⟩⟩
  cases f with
  | probe k => exact ⟨k, mem⟩
  | _ => cases probe

theorem any_credit_iff (waiting : List LaneFrame) :
    waiting.any LaneFrame.isCredit = true ↔ ∃ limit, LaneFrame.credit limit ∈ waiting := by
  rw [List.any_eq_true]
  refine ⟨fun ⟨f, mem, credit⟩ => ?_, fun ⟨k, mem⟩ => ⟨_, mem, rfl⟩⟩
  cases f with
  | credit k => exact ⟨k, mem⟩
  | _ => cases credit

theorem Lane.makeDue_eq (f : LaneFrame) (l : Lane) :
    l.makeDue f = if l.sending = none then { l with sending := some f } else { l with waiting := l.waiting ++ [f] } := by
  unfold Lane.makeDue
  cases l.sending with
  | none => exact (if_pos rfl).symm
  | some _ => exact (if_neg (Option.some_ne_none _)).symm

theorem Lane.dueProbe_eq (k : Fin 4) (l : Lane) : l.dueProbe k =
    if ∃ i, LaneFrame.probe i ∈ l.waiting then
      { l with waiting := l.waiting.map fun g => if g.isProbe then .probe k else g }
    else l.makeDue (.probe k) := if_congr (any_probe_iff _) rfl rfl

theorem Lane.dueCredit_eq (now : Nat) (l : Lane) : l.dueCredit now =
    let m : Lane := { l with lastSent := l.limit, timers := { l.timers with refresh := some (now + 50000) } }
    if ∃ limit, LaneFrame.credit limit ∈ l.waiting then
      { m with waiting := l.waiting.map fun g => if g.isCredit then .credit l.limit else g }
    else m.makeDue (.credit l.limit) := if_congr (any_credit_iff _) rfl rfl

/-- The transmitter goes on to its next frame; the probe interval timer starts behind the last PROBE (R30, R33). -/
theorem Lane.frameSent_eq {l : Lane} {f : LaneFrame} (sending : l.sending = some f) (now : Nat) : l.frameSent now = { l with
    sending := l.waiting.head?
    waiting := l.waiting.tail
    timers := { l.timers with probeInterval :=
      if f.isProbe = true ∧ l.state = .probing ∧ ∀ g ∈ l.waiting, g.isProbe = false then some (now + 10000)
      else l.timers.probeInterval } } := by
  have noProbe : l.waiting.any LaneFrame.isProbe = false ↔ ∀ g ∈ l.waiting, g.isProbe = false := by
    simp only [List.any_eq_false, Bool.not_eq_true]
  unfold Lane.frameSent
  rw [sending]
  dsimp only
  simp only [noProbe]
  split <;> rfl

/-- Settles O23: the three ways a frame becomes due, and the frame that follows a finished one. -/
theorem laneTransmitterKeepsOrder : Obligations.LaneTransmitterKeepsOrder := by
  refine ⟨fun l f k now => ⟨l.makeDue_eq f, l.dueProbe_eq k, l.dueCredit_eq now⟩, fun s n f running sending => ?_⟩
  change execLaneFrameSent n s = _
  unfold execLaneFrameSent
  rw [State.event_next running, State.mapLane, Lane.frameSent_eq sending]
  rfl

/-! ## The CREDIT triggers (R65 to R67) -/

theorem Lane.exhausted_iff (l : Lane) : l.exhausted = true ↔ (l.e - l.lastSent - 1).toNat < 32768 ∧
    1 ≤ (l.limit - l.lastSent).toNat ∧ (l.limit - l.lastSent).toNat ≤ 64 := by
  simp only [Lane.exhausted, Bool.and_eq_true, decide_eq_true_eq]

theorem Lane.stepReached_iff (l : Lane) : l.stepReached = true ↔ l.config.creditStep ≤ (l.limit - l.lastSent).toNat := by
  simp only [Lane.stepReached, decide_eq_true_eq]

/-- Settles O25: the two triggers with their tests as numbers, and the refresh timer's expiry. -/
theorem creditFrameTriggers : Obligations.CreditFrameTriggers := by
  refine ⟨fun l now => ⟨?_, ?_⟩, fun s n d running active deadline reached => ?_⟩
  · exact if_congr (and_congr_right fun _ => l.exhausted_iff) rfl rfl
  · refine if_congr (and_congr_right fun _ => ?_) rfl rfl
    rw [Bool.or_eq_true, l.stepReached_iff, l.exhausted_iff]
  · refine (State.event_next running _).trans (congrArg _ (if_pos ⟨active, ?_⟩))
    rw [deadline, expired_some reached]

end Sys2Proof.Machine
end

section
/-! Record admission: the header decision, and the end verdicts (R49 to R62). -/
namespace Sys2Proof.Machine

section
variable {s : State} {n : LaneId}

/-! ## The bytes of a RECORD frame -/

/-- The bytes that come to a hunting receiver hold no payload yet. -/
theorem State.recordBytes_hunting (hunting : (s.lane n).receiver = .hunting) (bytes : List Byte) :
    s.recordBytes n bytes = s.setLane n ((s.lane n).gathered bytes s.clock) := by
  have idle : ((s.lane n).gathered bytes s.clock).receiver = .hunting := by rw [Lane.gathered_receiver, hunting]
  rw [State.recordBytes_eq, ← Lane.storePayload_eq, Lane.storePayload_of_hunting idle]
  rfl

/-- The bytes that come to a lane that assembles nothing are stored nowhere. -/
theorem State.recordBytes_idle (idle : (s.lane n).assembly = none) (bytes : List Byte) :
    s.recordBytes n bytes = s.setLane n ((s.lane n).gathered bytes s.clock) := by
  have none : ((s.lane n).gathered bytes s.clock).assembly = none := by rw [Lane.gathered_fields, idle]
  rw [State.recordBytes_eq, ← Lane.storePayload_eq, Lane.storePayload_of_none none]
  rfl

/-- The bytes of a RECORD frame to its end give the record it carries its payload (R59). -/
theorem State.recordBytes_assembly {covered rest crc : List Byte} {inSession : Bool} {r : Record}
    (receiver : (s.lane n).receiver = .record covered rest.length inSession) (assembly : (s.lane n).assembly = some r) :
    s.recordBytes n (covered ++ rest ++ crc) = s.setLane n
      { (s.lane n).gathered (covered ++ rest ++ crc) s.clock with assembly := some { r with payload := rest } } := by
  have held : ((s.lane n).gathered (covered ++ rest ++ crc) s.clock).assembly = some r := by
    rw [Lane.gathered_fields, assembly]
  rw [State.recordBytes_eq, ← Lane.storePayload_eq, Lane.storePayload, held, Option.map_some,
    Lane.fillPayload_gathered receiver]
  rfl

/-- The bytes of a frame touch nothing but the frame the receiver is gathering. -/
theorem Lane.gathered_frame (l : Lane) (bytes : List Byte) (now : Nat) :
    ∃ frame, l.gathered bytes now = { l with reception := { l.reception with frame := frame } } := by
  unfold Lane.gathered
  split
  · exact ⟨_, rfl⟩
  · exact ⟨_, rfl⟩

/-! ## The header decision (R49 to R57) -/

/-- The window's four cases by the distance from e (R53). -/
theorem windowCase_eq (e : Half) (reservation : Nat) (seq : Half) : windowCase e reservation seq =
    if (seq - e).toNat < reservation then if (seq - e).toNat = 0 then .inOrder else .gap (seq - e).toNat
    else if (seq - e).toNat < 32768 then .overrun else .duplicate := by
  unfold windowCase
  dsimp only
  by_cases inside : (seq - e).toNat < reservation
  · rw [if_pos inside]
    by_cases zero : (seq - e).toNat = 0
    · rw [if_pos ⟨zero, by omega⟩, if_pos zero]
    · rw [if_neg (fun h => zero h.1), if_pos ⟨by omega, inside⟩, if_neg zero]
  · rw [if_neg inside, if_neg (by omega), if_neg (by omega)]

theorem exec_recordHeader {length : Half} {seqByte check : Byte} {h : RecordHeader} (hears : Hears s n)
    (least : 13 ≤ length.toNat) (most : length.toNat ≤ 260) :
    exec (.recordHeader n length seqByte h check) s = .next (
      let covered := headerCovered length seqByte h check
      let t := s.setLane n ((s.lane n).gathered covered s.clock)
      if (s.lane n).inSession then t.headerDecision n (length.toNat - 2) covered h check
      else t.receiveRecord n covered (length.toNat - 13) false) := by
  obtain ⟨running, hunting⟩ := hears
  have fits : ¬((s.lane n).receiver ≠ .hunting ∨ length.toNat < 13 ∨ 260 < length.toNat) := by
    rintro (gathering | short | long)
    · exact gathering hunting
    · omega
    · omega
  change execRecordHeader n length seqByte h check s = _
  unfold execRecordHeader
  rw [State.event_next running]
  dsimp only
  rw [if_neg fits, State.recordBytes_hunting hunting]
  rfl

/-- A header accepted on a lane just read: the window, the record and the Record Store (R54, R55, R58). -/
theorem State.acceptHeader_setLane (l : Lane) (h : RecordHeader) (d : Nat) : (s.setLane n l).acceptHeader n h d =
    let missing := min (l.pendingMissing + d) 65535
    let r : Record := ⟨n, h.channel, h.kind, h.seq, h.sourceTime, h.payloadLength.toNat,
      if missing = 0 then none else some missing, [], none, none, none, none, none, 0, false⟩
    ({ s with
      lanes := s.lanes.set n (({ l with
        e := h.seq + 1
        pendingMissing := 0
        assembly := some r
        counters := { l.counters with missingTotal := bumpBy d l.counters.missingTotal } } : Lane).testCreditAfterE s.clock)
      store := { s.store with
        freeDescriptors := s.store.freeDescriptors - 1
        freeBlocks := s.store.freeBlocks - (h.payloadLength.toNat + 63) / 64 } } : State).storeLowTest := by
  unfold State.acceptHeader
  simp only [State.mapLane_setLane, State.lane_setLane, if_true, State.setLane_clock]
  rfl

/-- The header decision on a lane just read. -/
theorem State.headerDecision_setLane {l : Lane} {length : Half} {covered : List Byte} {h : RecordHeader} {check : Byte}
    (least : 13 ≤ length.toNat) :
    (s.setLane n l).headerDecision n (length.toNat - 2) covered h check =
      let skipping : Lane := { l with receiver := .record covered (length.toNat - 13) true }
      let d := (h.seq - l.e).toNat
      if check ≠ crc8 (headerBytes h) then
        (s.setLane n { l with
          counters := { l.counters with headerCheckErrors := bump l.counters.headerCheckErrors } }).badFramed n
      else if 240 < h.payloadLength.toNat ∨ length.toNat ≠ 13 + h.payloadLength.toNat then
        s.setLane n { skipping with counters := { l.counters with malformed := bump l.counters.malformed } }
      else if d < l.reservation then (s.setLane n skipping).acceptHeader n h d
      else if d < 32768 then
        s.setLane n { skipping with counters := { l.counters with overruns := bump l.counters.overruns } }
      else s.setLane n { skipping with counters := { l.counters with duplicates := bump l.counters.duplicates } } := by
  have size : length.toNat - 2 ≠ 11 + h.payloadLength.toNat ↔ length.toNat ≠ 13 + h.payloadLength.toNat := by omega
  have behind : length.toNat - 2 - 11 = length.toNat - 13 := by omega
  unfold State.headerDecision State.receiveRecord
  simp only [State.mapLane_setLane, State.lane_setLane, if_true, State.badFrame_eq, size, behind]
  refine if_congr ne_comm rfl (if_congr Iff.rfl rfl ?_)
  rw [windowCase_eq]
  change (match (if (h.seq - l.e).toNat < l.reservation then _ else _ : WindowCase) with
    | .inOrder => _ | .gap d => _ | .overrun => _ | .duplicate => _) = _
  split_ifs with inside zero near
  · rw [zero]
  · rfl
  · rfl
  · rfl

end

/-- Settles O27: the tests of R49 in their order, on the lane that holds the frame's bytes. -/
theorem headerDecisionByCheckFormAndWindow : Obligations.HeaderDecisionByCheckFormAndWindow := by
  intro s n length seqByte check h hears session least most l skipping d missing r
  rw [exec_recordHeader hears least most]
  dsimp only
  rw [if_pos session, State.headerDecision_setLane least]
  refine congrArg _ (if_congr Iff.rfl rfl (if_congr Iff.rfl rfl (if_congr Iff.rfl ?_ rfl)))
  exact State.acceptHeader_setLane skipping h d

/-! ## The end verdicts (R60 to R62) -/

section
variable {s : State} {n : LaneId}

theorem exec_recordEnd {covered rest : List Byte} {crc : Half} {inSession : Bool} (running : s.running = true)
    (receiver : (s.lane n).receiver = .record covered rest.length inSession) :
    exec (.recordEnd n rest crc) s = .next (
      let t := s.recordBytes n (covered ++ rest ++ be16 crc)
      match (t.lane n).assembly with
      | some r => if crc16 (covered ++ rest) = crc then t.recordGood n r else t.recordBad n r
      | none => t.frameEnd n inSession (decide (crc16 (covered ++ rest) = crc))) := by
  change execRecordEnd n rest crc s = _
  unfold execRecordEnd
  rw [State.event_next running]
  dsimp only
  rw [receiver]
  dsimp only
  rw [if_neg (not_not.mpr rfl)]
  simp only [decide_eq_true_eq] <;> rfl

/-- A good end verdict on a record of a lane just read (R60). -/
theorem State.recordGood_setLane (l : Lane) (r : Record) : (s.setLane n l).recordGood n r =
    ({ s with
      lanes := s.lanes.set n { ({ l with receiver := .hunting } : Lane).heard s.clock with
        assembly := none
        counters := { l.counters with recordsAccepted := bump l.counters.recordsAccepted } }
      classifier := s.classifier.join s.clock { r with arrival := some (BitVec.ofNat 32 s.clock) } } : State).windowTested n := by
  unfold State.recordGood
  simp only [State.mapLane_setLane, State.setLane_clock, Lane.goodFrame_eq, State.checkWindow_eq]
  rfl

/-- The end of a frame that makes no claim, on a lane just read (R28, R49, R62). -/
theorem State.frameEnd_good (l : Lane) (inSession : Bool) : (s.setLane n l).frameEnd n inSession true =
    let heard := ({ l with receiver := .hunting } : Lane).heard s.clock
    s.setLane n { heard with counters := { l.counters with
      protocolErrors := if inSession then l.counters.protocolErrors else bump l.counters.protocolErrors } } := by
  unfold State.frameEnd
  rw [if_pos rfl]
  cases inSession <;>
    simp only [State.mapLane_setLane, State.protocolError_eq, State.lane_setLane, if_true, State.setLane_clock,
      Lane.goodFrame_eq, Bool.false_eq_true, if_false]
  · exact congrArg (fun v => ({ s with lanes := v } : State)) (vector_set_set _ _ _ _)
  · rfl

theorem State.laneFrameFails_idle (idle : (s.lane n).assembly = none) : s.laneFrameFails n = s.badFramed n := by
  rw [State.laneFrameFails_eq, idle]
  cases (s.lane n).receiver <;> rfl

/-- A bad end verdict on the record of a lane just read is a frame that fails (R61). -/
theorem State.recordBad_setLane (l : Lane) (r : Record) {covered : List Byte} {remaining : Nat} {inSession : Bool}
    (receiver : l.receiver = .record covered remaining inSession) (assembly : l.assembly = some r) (payload : List Byte) :
    (s.setLane n { l with assembly := some { r with payload := payload } }).recordBad n { r with payload := payload } =
      (s.setLane n l).laneFrameFails n := by
  rw [State.laneFrameFails_eq, State.recordBad_eq]
  simp only [State.lane_setLane, if_true, receiver, assembly]
  simp only [State.setLane, vector_set_set]
  rfl

theorem nat16_be16Nat {k : Nat} (h : k < 65536) : nat16 ((BitVec.ofNat 16 k).extractLsb' 8 8)
    ((BitVec.ofNat 16 k).extractLsb' 0 8) = k := by
  rw [nat16, half_be16, BitVec.toNat_ofNat, Nat.mod_eq_of_lt h]

theorem isShortRecord_coveredBytes (seqByte : Byte) {body : List Byte} (short : body.length < 11) :
    State.isShortRecord (coveredBytes seqByte 0x12 body) = true := by
  have size := nat16_be16Nat (k := body.length + 2) (by omega)
  simp [State.isShortRecord, coveredBytes, be16Nat, be16, LaneKind.record, size, short]

/-- A RECORD frame that ends before a header decision (R49). -/
theorem exec_shortRecord {covered : List Byte} {crc : Half} (hears : Hears s n)
    (short : State.isShortRecord covered = true) :
    exec (.recordEnd n covered crc) s = .next ((s.setLane n ((s.lane n).gathered (covered ++ be16 crc) s.clock)).shortRecordEnd n
      (decide (crc16 covered = crc))) := by
  obtain ⟨running, hunting⟩ := hears
  change execRecordEnd n covered crc s = _
  unfold execRecordEnd
  rw [State.event_next running]
  dsimp only
  rw [hunting]
  dsimp only
  rw [if_pos short, State.recordBytes_hunting hunting]

/-- The verdict on a frame that ends before a header decision, on a lane just read (R28, R49). -/
theorem State.shortRecordEnd_setLane (l : Lane) (good : Bool) : (s.setLane n l).shortRecordEnd n good =
    if good = true then
      let heard := l.heard s.clock
      if l.inSession = true then
        s.setLane n { heard with counters := { l.counters with malformed := bump l.counters.malformed } }
      else s.setLane n { heard with counters := { l.counters with protocolErrors := bump l.counters.protocolErrors } }
    else (s.setLane n l).badFramed n := by
  unfold State.shortRecordEnd
  simp only [State.protocolError_eq, State.mapLane_setLane, State.lane_setLane, if_true, State.setLane_clock,
    Lane.goodFrame_eq, State.badFrame_eq]
  simp only [State.setLane, vector_set_set]
  rfl

end

/-- Settles O28: a frame past its header decision ends by what its lane assembles; a short one, and one outside a session, make
no claim. -/
theorem recordFrameEndVerdicts : Obligations.RecordFrameEndVerdicts := by
  refine ⟨fun s n rest crc covered inSession running receiver => ?_, fun s n seqByte body crc hears short => ?_,
    fun s n length seqByte check h hears session least most => ?_⟩
  · intro l good heard
    have fails : exec (.laneBadFrame n) (s.setLane n (l.gathered (covered ++ rest ++ be16 crc) s.clock)) =
        .next ((s.setLane n (l.gathered (covered ++ rest ++ be16 crc) s.clock)).laneFrameFails n) :=
      State.event_next (s := s.setLane n _) running _
    obtain ⟨frame, fields⟩ := l.gathered_frame (covered ++ rest ++ be16 crc) s.clock
    rw [exec_recordEnd running receiver]
    cases assembly : l.assembly with
    | some r =>
      dsimp only
      rw [State.recordBytes_assembly receiver assembly, State.lane_setLane, if_pos rfl]
      dsimp only
      by_cases verdict : good
      · rw [if_neg (not_not.mpr verdict), if_pos verdict, State.recordGood_setLane]
        rw [fields]
        rfl
      · rw [if_pos verdict, if_neg verdict]
        refine (congrArg _ ?_).trans fails.symm
        exact State.recordBad_setLane _ r ((Lane.gathered_receiver l _ _).trans receiver) (by rw [fields, assembly]) rest
    | none =>
      have idle : (l.gathered (covered ++ rest ++ be16 crc) s.clock).assembly = none := by rw [fields, assembly]
      dsimp only
      rw [State.recordBytes_idle assembly, State.lane_setLane, if_pos rfl, idle]
      dsimp only
      by_cases verdict : good
      · rw [if_neg (not_not.mpr verdict), decide_eq_true verdict, State.frameEnd_good]
        rw [fields]
        rfl
      · rw [if_pos verdict, decide_eq_false verdict]
        refine (congrArg _ ?_).trans fails.symm
        rw [State.laneFrameFails_idle (by rw [State.lane_setLane, if_pos rfl, idle]), ← State.badFrame_eq]
        rfl
  · intro covered l
    obtain ⟨frame, fields⟩ := (s.lane n).gathered_frame (covered ++ be16 crc) s.clock
    rw [exec_shortRecord hears (isShortRecord_coveredBytes seqByte short), State.shortRecordEnd_setLane]
    refine congrArg _ ?_
    by_cases verdict : crc16 covered = crc
    · rw [if_pos (decide_eq_true verdict), if_neg (not_not.mpr verdict), fields]
      rfl
    · rw [if_neg (fun good => verdict (of_decide_eq_true good)), if_pos verdict]
      rfl
  · rw [exec_recordHeader hears least most]
    dsimp only
    rw [session, if_neg Bool.false_ne_true, State.receiveRecord, State.mapLane_setLane]
    rfl

end Sys2Proof.Machine
end

section
/-! The rules of a bank, scanned in their order: the first chain that matches decides (R75 to R77). -/
namespace Sys2Proof.Machine

namespace RuleBank

variable {b : RuleBank} {r : Record} {i k : Nat} {so : Bool}

/-- The scan has come to rule k inside the chain that begins at rule i; `so` says whether every rule of that chain so far is
enabled and true. -/
structure Scanned (b : RuleBank) (r : Record) (i k : Nat) (so : Bool) : Prop where
  begun : i ≤ k
  joined : ∀ m : Fin 32, i ≤ m.val → m.val < k → b.rules[m].chain = true
  apart : ∀ m : Fin 32, m.val + 1 = i → b.rules[m].chain = false
  soFar : so = true ↔ ∀ m : Fin 32, i ≤ m.val → m.val < k → b.rules[m].enabled = true ∧ ruleTrue r b.rules[m] = true

namespace Scanned

theorem start : Scanned b r 0 0 true where
  begun := le_rfl
  joined _ _ h := absurd h (Nat.not_lt_zero _)
  apart _ h := absurd h (Nat.succ_ne_zero _)
  soFar := iff_of_true rfl fun _ _ h => absurd h (Nat.not_lt_zero _)

/-- Behind a rule that is not joined to the next, a chain begins (R75). -/
theorem next (hk : k < 32) (last : b.rules[k].chain = false) : Scanned b r (k + 1) (k + 1) true where
  begun := le_rfl
  joined _ least most := absurd most least.not_gt
  apart m h := by
    obtain rfl : m.val = k := Nat.succ.inj h
    exact last
  soFar := iff_of_true rfl fun _ least most => absurd most least.not_gt

variable (scan : Scanned b r i k so)
include scan

/-- The chain so far, with its next rule (R76). -/
theorem soFar_next (hk : k < 32) : (so && b.rules[k].enabled && ruleTrue r b.rules[k]) = true ↔
    ∀ m : Fin 32, i ≤ m.val → m.val < k + 1 → b.rules[m].enabled = true ∧ ruleTrue r b.rules[m] = true := by
  simp only [Bool.and_eq_true, scan.soFar]
  refine ⟨fun ⟨⟨before, enabled⟩, holds⟩ m least most => ?_, fun all => ⟨⟨fun m least most => ?_, ?_⟩, ?_⟩⟩
  · obtain earlier | same := Nat.lt_succ_iff_lt_or_eq.mp most
    · exact before m least earlier
    · obtain rfl := same
      exact ⟨enabled, holds⟩
  · exact all m least (most.trans k.lt_succ_self)
  · exact (all ⟨k, hk⟩ scan.begun k.lt_succ_self).1
  · exact (all ⟨k, hk⟩ scan.begun k.lt_succ_self).2

/-- A rule that is joined to the next is inside its chain (R75). -/
theorem join (hk : k < 32) (chain : b.rules[k].chain = true) :
    Scanned b r i (k + 1) (so && b.rules[k].enabled && ruleTrue r b.rules[k]) where
  begun := scan.begun.trans k.le_succ
  joined m least most := by
    obtain earlier | same := Nat.lt_succ_iff_lt_or_eq.mp most
    · exact scan.joined m least earlier
    · obtain rfl := same
      exact chain
  apart := scan.apart
  soFar := scan.soFar_next hk

/-- A rule that is not joined to the next ends the chain (R75). -/
theorem chainAt (hk : k < 32) (last : b.rules[k].chain = false) : b.ChainAt ⟨i, scan.begun.trans_lt hk⟩ ⟨k, hk⟩ :=
  ⟨scan.begun, scan.joined, last, scan.apart⟩

theorem chainMatches_iff (hk : k < 32) : (so && b.rules[k].enabled && ruleTrue r b.rules[k]) = true ↔
    b.ChainMatches r ⟨i, scan.begun.trans_lt hk⟩ ⟨k, hk⟩ := by
  rw [scan.soFar_next hk]
  exact forall_congr' fun m => forall_congr' fun _ => imp_congr Nat.lt_succ_iff Iff.rfl

/-- A chain that ends where the scanned one does begins where it does. -/
theorem chainAt_unique {i' j' : Fin 32} (chain : b.ChainAt i' j') (ends : j'.val = k) (behind : i ≤ i'.val) :
    i'.val = i := by
  obtain ⟨order, -, -, apart⟩ := chain
  have order : i'.val ≤ j'.val := order
  by_contra differs
  have inside := scan.joined ⟨i'.val - 1, by omega⟩ (by change i ≤ i'.val - 1; omega) (by change i'.val - 1 < k; omega)
  exact absurd (inside.symm.trans (apart ⟨i'.val - 1, by omega⟩ (by change i'.val - 1 + 1 = i'.val; omega))) (by decide)

end Scanned

/-- What the scan does at a rule (R76, R77). -/
theorem decidingRule_drop (hk : k < 32) : decidingRule r k so (b.rules.toList.drop k) =
    let ok := so && b.rules[k].enabled && ruleTrue r b.rules[k]
    if b.rules[k].chain then decidingRule r (k + 1) ok (b.rules.toList.drop (k + 1))
    else if ok then some (k, b.rules[k])
    else decidingRule r (k + 1) true (b.rules.toList.drop (k + 1)) := by
  have here : b.rules.toList.drop k = b.rules[k] :: b.rules.toList.drop (k + 1) := by
    rw [List.drop_eq_getElem_cons (by simpa using hk), Vector.getElem_toList]
  rw [here]
  rfl

/-- The first chain that matches decides, by its last rule (R77). -/
theorem decidingRule_of_first {i' j' : Fin 32} (chain : b.ChainAt i' j') (hit : b.ChainMatches r i' j')
    (first : ∀ i j, b.ChainAt i j → j < i' → ¬b.ChainMatches r i j) (scan : Scanned b r i k so) (ahead : k ≤ j'.val)
    (behind : i ≤ i'.val) : decidingRule r k so (b.rules.toList.drop k) = some (j'.val, b.rules[j']) := by
  obtain ⟨n, size⟩ : ∃ n, j'.val = k + n := ⟨j'.val - k, by omega⟩
  induction n generalizing i k so with
  | zero =>
    have hk : k < 32 := by omega
    obtain rfl : k = j'.val := by omega
    obtain rfl := scan.chainAt_unique chain rfl behind
    obtain ⟨-, -, last, -⟩ := id chain
    rw [decidingRule_drop hk]
    dsimp only
    rw [(scan.chainMatches_iff hk).mpr hit, if_pos rfl]
    exact if_neg (Bool.eq_false_iff.mp last)
  | succ n ih =>
    have hk : k < 32 := by omega
    rw [decidingRule_drop hk]
    dsimp only
    cases last : b.rules[k].chain with
    | true => exact ih (scan.join hk last) (by omega) behind (by omega)
    | false =>
      have beyond : k < i'.val := by
        by_contra inside
        obtain ⟨-, joined, -, -⟩ := chain
        exact absurd (last.symm.trans (joined ⟨k, hk⟩ (Nat.not_lt.mp inside) (by change k < j'.val; omega))) (by decide)
      have misses := mt (scan.chainMatches_iff hk).mp (first _ _ (scan.chainAt hk last) beyond)
      rw [if_neg Bool.false_ne_true, if_neg misses]
      exact ih (.next hk last) (by omega) beyond (by omega)

/-- When no chain matches no rule decides (R77). -/
theorem decidingRule_of_none (misses : ∀ i j, b.ChainAt i j → ¬b.ChainMatches r i j) (scan : Scanned b r i k so)
    (within : k ≤ 32) : decidingRule r k so (b.rules.toList.drop k) = none := by
  obtain ⟨n, size⟩ : ∃ n, 32 = k + n := ⟨32 - k, by omega⟩
  induction n generalizing i k so with
  | zero => rw [List.drop_eq_nil_of_le (by simp; omega)]; rfl
  | succ n ih =>
    have hk : k < 32 := by omega
    rw [decidingRule_drop hk]
    dsimp only
    cases last : b.rules[k].chain with
    | true => exact ih (scan.join hk last) (by omega) (by omega)
    | false =>
      rw [if_neg Bool.false_ne_true, if_neg (mt (scan.chainMatches_iff hk).mp (misses _ _ (scan.chainAt hk last)))]
      exact ih (.next hk last) (by omega) (by omega)

end RuleBank

/-! ## What a valid bank can decide (R86, R87) -/

theorem rules_valid_of_none {rules : List RuleEntry} {i : Nat} (valid : firstInvalidRule i rules = none) {j : Nat}
    (hj : j < rules.length) : rules[j].valid (i + j) = true := by
  induction rules generalizing i j with
  | nil => exact absurd hj (Nat.not_lt_zero _)
  | cons e rest ih =>
    unfold firstInvalidRule at valid
    split at valid
    case isTrue here =>
      cases j with
      | zero => exact here
      | succ j =>
        rw [show i + (j + 1) = i + 1 + j by omega]
        exact ih valid (Nat.lt_of_succ_lt_succ hj)
    case isFalse => cases valid

theorem RuleBank.valid_iff {b : RuleBank} : b.valid = true ↔
    firstInvalidRule 0 b.rules.toList = none ∧ actionValid b.defaultAction b.defaultQueue = true := by
  unfold RuleBank.valid RuleBank.firstInvalid
  cases firstInvalidRule 0 b.rules.toList with
  | some i => exact iff_of_false Bool.false_ne_true fun ⟨passes, _⟩ => nomatch passes
  | none =>
    dsimp only
    cases actionValid b.defaultAction b.defaultQueue <;> simp

/-- A valid action decides as its code says, and a delivery names a queue there is (R86). -/
theorem decisionOf_valid {action queue : Byte} (label : Byte) (valid : actionValid action queue = true) :
    (action = 1 ∧ ∃ h : queue.toNat < 8, decisionOf action queue label = .deliver ⟨queue.toNat, h⟩ label) ∨
      (action = 0 ∧ decisionOf action queue label = .discard) := by
  obtain ⟨rfl, named⟩ | ⟨rfl, -⟩ := actionValid_iff.mp valid
  · have queueOk : queue.toNat < 8 := Nat.lt_succ_of_le named
    refine .inl ⟨rfl, queueOk, ?_⟩
    have same : Fin.ofNat 8 queue.toNat = ⟨queue.toNat, queueOk⟩ := Fin.ext (Nat.mod_eq_of_lt queueOk)
    rw [decisionOf, if_pos rfl, same]
  · exact .inr ⟨rfl, rfl⟩

/-- Settles O30: the scan of the rules finds the first chain that matches, or the default action, and either is an action that
was valid at its commit. -/
theorem firstMatchingChainDecides : Obligations.FirstMatchingChainDecides := by
  refine ⟨fun b r => ⟨fun i j chain hit first => ?_, fun misses => ?_⟩, fun b valid => ?_⟩
  · have found := RuleBank.decidingRule_of_first chain hit first .start (Nat.zero_le _) (Nat.zero_le _)
    rw [List.drop_zero] at found
    rw [RuleBank.judge, found]
  · have found := RuleBank.decidingRule_of_none misses .start (Nat.zero_le _)
    rw [List.drop_zero] at found
    rw [RuleBank.judge, found]
  · intro decided
    obtain ⟨rules, default⟩ := RuleBank.valid_iff.mp valid
    refine ⟨fun i => decisionOf_valid _ ?_, decisionOf_valid _ default⟩
    have entry := rules_valid_of_none rules (j := i) (by simp)
    rw [Vector.getElem_toList] at entry
    obtain ⟨-, -, -, action, -⟩ := RuleEntry.valid_iff.mp entry
    exact actionValid_iff.mpr action

end Sys2Proof.Machine
end

section
/-! A commit that waits for the walk in flight (R88, R166). -/
namespace Sys2Proof.Machine

section
variable {s : State}

/-! ## The SYNCs that waited -/

theorem State.answerRoom_of_free (free : s.link.executing = none) :
    s.answerRoom = true ↔ ¬8 ≤ s.link.outbound.length := by
  unfold State.answerRoom
  rw [free, decide_eq_true_iff]
  exact Nat.not_le.symm

/-- Where there is room for its answer, a SYNC is taken as R166 says. -/
theorem State.syncStep_of_room (room : ¬8 ≤ s.link.outbound.length) (seq : Byte) : s.syncStep seq = s.syncTaken seq := by
  unfold State.syncStep State.syncTaken
  dsimp only
  rw [if_neg room, State.syncNotice_eq, State.place_eq]
  · rfl
  · exact synced_after_sync _

/-- With no request in execution a SYNC is taken as R166 says. -/
theorem State.takeSync_of_free (free : s.link.executing = none) (seq : Byte) : s.takeSync seq = s.syncTaken seq := by
  unfold State.takeSync
  by_cases full : 8 ≤ s.link.outbound.length
  · rw [if_neg fun room => (State.answerRoom_of_free free).mp room full, State.syncTaken, if_pos full]
    rfl
  · rw [if_pos ((State.answerRoom_of_free free).mpr full), State.syncStep_of_room full]

/-- A SYNC is taken without a look at the Classifier. -/
theorem State.takeSync_withClassifier (c : Classifier) (seq : Byte) :
    ({ s with classifier := c } : State).takeSync seq = { s.takeSync seq with classifier := c } := by
  have roomOf (t : State) (room : t.answerRoom = true) : ¬8 ≤ t.link.outbound.length := by
    unfold State.answerRoom at room
    have room := of_decide_eq_true room
    split at room <;> omega
  unfold State.takeSync
  by_cases room : s.answerRoom = true
  · have same : ({ s with classifier := c } : State).answerRoom = true := room
    rw [if_pos room, if_pos same, State.syncStep_of_room (roomOf _ same), State.syncStep_of_room (roomOf _ room)]
    unfold State.syncTaken
    dsimp only
    rw [if_neg (roomOf _ room), if_neg (roomOf _ room)]
    rfl
  · have same : ¬({ s with classifier := c } : State).answerRoom = true := room
    rw [if_neg room, if_neg same]
    rfl

theorem State.takeSyncs_withClassifier (c : Classifier) (seqs : List Byte) :
    seqs.foldl (fun t seq => t.takeSync seq) { s with classifier := c } =
      { seqs.foldl (fun t seq => t.takeSync seq) s with classifier := c } := by
  induction seqs generalizing s with
  | nil => rfl
  | cons seq rest ih => rw [List.foldl_cons, State.takeSync_withClassifier, ih]; rfl

theorem State.takeSyncs_side (seqs : List Byte) : LinkSide s (seqs.foldl (fun t seq => t.takeSync seq) s) := by
  induction seqs generalizing s with
  | nil => exact .refl s
  | cons seq rest ih => exact (LinkSide.takeSync (.refl s)).trans ih

/-! ## The hand-over while a commit is pending -/

/-- An outcome is handed on without a look at the pending commit. -/
theorem State.handOn_withPending (pending : Bool) (d : Decision) (r : Record) :
    ({ s with classifier := { s.classifier with pendingCommit := pending } } : State).handOn d r =
      { s.handOn d r with classifier := { (s.handOn d r).classifier with pendingCommit := pending } } := by
  rw [State.handOn_withClassifier, State.handOn_withClassifier (s := s) s.classifier]
  cases d with
  | discard => rfl
  | deliver q label => dsimp only; split <;> rfl

/-- The link behind a commit that is answered, before the SYNCs that waited (R88). -/
def Link.committed (r : Frame) (generation : Half) (k : Link) : Link :=
  { ({ k with executing := none } : Link).concludedBy .response r (0x00 :: be16 generation) with syncWaiting := [] }

theorem Link.concludedBy_syncWaiting (wrap : Frame → OutFrame) (r : Frame) (body : List Byte) (k : Link) :
    (k.concludedBy wrap r body).syncWaiting = k.syncWaiting := (Link.Ok.send_fields _).2.2.2.1

/-- A pending commit is taken: the switch, its answer, and the SYNCs that waited (R88, R166). -/
theorem State.takeCommit_pending {r : Frame} (pending : s.classifier.pendingCommit = true)
    (executing : s.link.executing = some r) : s.takeCommit = s.link.syncWaiting.foldl (fun t seq => t.takeSync seq) { s with
      classifier := s.classifier.commit, link := s.link.committed r (s.classifier.generation + 1) } := by
  unfold State.takeCommit
  rw [if_pos pending]
  dsimp only
  rw [executing]
  dsimp only
  rw [State.finish, State.finishWith_concluded, State.takeWaitingSyncs]
  dsimp only
  rw [Link.concludedBy_syncWaiting]
  rfl

/-- A commit that is taken before the next walk begins is taken as it would be behind that (R70, R88). -/
theorem Classifier.commit_beginWalk (c : Classifier) (now : Nat) : c.commit.beginWalk now =
    { ({ c with pendingCommit := false } : Classifier).beginWalk now with
      active := c.staging, generation := c.generation + 1 } := by
  unfold Classifier.beginWalk Classifier.commit
  dsimp only
  split <;> rfl

theorem Classifier.countDecision_banks (rule : Option Nat) (c : Classifier) :
    (c.countDecision rule).staging = c.staging ∧ (c.countDecision rule).generation = c.generation ∧
      ({ c with pendingCommit := false } : Classifier).countDecision rule =
        { c.countDecision rule with pendingCommit := false } := by
  cases rule <;> exact ⟨rfl, rfl, rfl⟩

/-- The walk in flight has ended, its outcome is handed on, and no commit has been taken yet (R77). -/
def State.handedOn (w : Walk) (s : State) : State :=
  ({ s with classifier := { s.classifier.countDecision (s.classifier.active.judge w.record).1 with walk := none } } : State).handOn
    (s.classifier.active.judge w.record).2 w.record

theorem State.handedOn_withSettled (w : Walk) :
    ({ s with classifier := { s.classifier with pendingCommit := false } } : State).handedOn w =
      { s.handedOn w with classifier := { (s.handedOn w).classifier with pendingCommit := false } } := by
  unfold State.handedOn
  obtain ⟨-, -, counted⟩ := s.classifier.countDecision_banks (s.classifier.active.judge w.record).1
  rw [← State.handOn_withPending]
  dsimp only
  rw [counted]

/-- What the hand-over leaves for the commit (R78 to R80, R88). -/
theorem State.handedOn_keeps (w : Walk) : (s.handedOn w).classifier.staging = s.classifier.staging ∧
    (s.handedOn w).classifier.generation = s.classifier.generation ∧
    (s.handedOn w).classifier.pendingCommit = s.classifier.pendingCommit ∧
    (s.handedOn w).link = s.link ∧ (s.handedOn w).clock = s.clock := by
  obtain ⟨staging, generation, -⟩ := s.classifier.countDecision_banks (s.classifier.active.judge w.record).1
  have pending := s.classifier.countDecision_pendingCommit (s.classifier.active.judge w.record).1
  unfold State.handedOn
  rw [State.handOn_classifier, State.handOn_link, State.handOn_clock]
  exact ⟨staging, generation, pending, rfl, rfl⟩

theorem State.endWalk_handedOn (w : Walk) : s.endWalk w =
    { (s.handedOn w).takeCommit with
      classifier := (s.handedOn w).takeCommit.classifier.beginWalk (s.handedOn w).takeCommit.clock } := rfl

/-- The end of a walk while no commit is pending: the outcome handed on, and the next walk begun. -/
theorem exec_walkEnd_settled {w : Walk} (running : s.running = true) (walking : s.classifier.walk = some w) :
    exec .walkEnd { s with classifier := { s.classifier with pendingCommit := false } } = .next { s.handedOn w with
      classifier := ({ (s.handedOn w).classifier with pendingCommit := false } : Classifier).beginWalk s.clock } := by
  obtain ⟨-, -, -, -, clock⟩ := s.handedOn_keeps w
  have ended : exec .walkEnd { s with classifier := { s.classifier with pendingCommit := false } } = .next
      (State.endWalk w { s with classifier := { s.classifier with pendingCommit := false } }) :=
    exec_walkEnd (s := { s with classifier := { s.classifier with pendingCommit := false } }) running walking
  rw [ended, State.endWalk_handedOn, State.handedOn_withSettled, State.takeCommit_of_settled rfl]
  dsimp only
  rw [clock]

/-- The end of a walk while a commit is pending (R88, R166). -/
theorem State.endWalk_pending {w : Walk} {r : Frame} (pending : s.classifier.pendingCommit = true)
    (executing : s.link.executing = some r) : s.endWalk w =
      s.link.syncWaiting.foldl (fun t seq => t.takeSync seq) { s.handedOn w with
        classifier := { ({ (s.handedOn w).classifier with pendingCommit := false } : Classifier).beginWalk s.clock with
          active := s.classifier.staging, generation := s.classifier.generation + 1 }
        link := s.link.committed r (s.classifier.generation + 1) } := by
  obtain ⟨staging, generation, stillPending, link, clock⟩ := s.handedOn_keeps w
  have taken := State.takeCommit_pending (stillPending.trans pending) (link ▸ executing)
  rw [link, generation] at taken
  rw [State.endWalk_handedOn, taken, (State.takeSyncs_side _).clock, (State.takeSyncs_side _).classifier,
    ← State.takeSyncs_withClassifier]
  dsimp only
  rw [clock, Classifier.commit_beginWalk, staging, generation]

end

/-- Settles O32: the outcome is handed on as if nothing were pending; then the commit and the SYNCs are taken, and the Classifier
they leave is the one the next walk has begun in. -/
theorem pendingCommitIsTakenAtWalkEnd : Obligations.PendingCommitIsTakenAtWalkEnd := by
  refine ⟨fun s seq free => State.takeSync_of_free free seq, fun s u w r running walking pending executing ended => ?_⟩
  cases (exec_walkEnd_settled running walking).symm.trans ended
  rw [exec_walkEnd running walking, State.endWalk_pending pending executing]
  rfl

end Sys2Proof.Machine
end

section
/-! The Notice Unit's levels and timers, and its configuration (R138, R139, R143, R147, R148). -/
namespace Sys2Proof.Machine

/-! ## A queue's due state (R139, R141, R143) -/

theorem isDue_iff {c : QueueConfig} {count now : Nat} {l : Level} : isDue c count l now = true ↔
    l.reported < count ∧ ((c.noticeThreshold ≠ 0 ∧ c.noticeThreshold ≤ count - l.reported) ∨
      (c.noticeHold ≠ 0 ∧ ∃ t, l.since = some t ∧ t + 1000 * c.noticeHold ≤ now)) := by
  unfold isDue
  cases l.since <;> simp

section
variable {n : Notice} {q : QueueId} {synced : Bool}

theorem Notice.snapshotNames_iff : n.snapshotNames q = true ↔ ∃ sn, n.snapshot = some sn ∧ sn.due[q] = true := by
  unfold Notice.snapshotNames
  cases n.snapshot <;> simp

theorem Notice.wanted_of_due (due : n.levels[q].due = true) : n.wanted = true := by
  rw [Notice.wanted, Notice.Ok.anyDue_iff n |>.mpr ⟨q, due⟩, Bool.or_true]

/-- A wanted notice is requested as the state, the enabling and the link allow (R141). -/
theorem Notice.request_of_wanted (wanted : n.wanted = true) : n.request synced = { n with
    state := if n.state = .quiet ∧ n.enabled = true ∧ synced = true then .waitingLink else n.state } := by
  simp only [Notice.request, wanted, true_and]
  split <;> rfl

/-- A queue that is due now and was not: in QUIET a notice is requested, and in AWAITING_ACK a queue that the snapshot does not
name sets the dirty flag (R141, R143). -/
theorem Notice.becameDue_eq (due : n.levels[q].due = true) : n.becameDue q synced = { n with
    state := if n.state = .quiet ∧ n.enabled = true ∧ synced = true then .waitingLink else n.state
    dirty := n.dirty || decide (n.state = .awaitingAck ∧ ¬∃ sn, n.snapshot = some sn ∧ sn.due[q] = true) } := by
  simp only [← Notice.snapshotNames_iff]
  cases state : n.state with
  | quiet =>
    have request : n.becameDue q synced = n.request synced := by rw [Notice.becameDue, state]
    rw [request, Notice.request_of_wanted (Notice.wanted_of_due due)]
    simp [state]
  | waitingLink =>
    simp only [Notice.becameDue, state, reduceCtorEq, false_and, if_false, decide_false, Bool.or_false]
    rw [← state]
  | awaitingAck =>
    cases named : n.snapshotNames q with
    | true =>
      simp only [Notice.becameDue, state, named, reduceCtorEq, false_and, if_true, if_false, not_true_eq_false, and_false,
        decide_false, Bool.or_false]
      rw [← state]
    | false => simp [Notice.becameDue, Notice.markDirty, state, named]

/-- A due state evaluated afresh, and what a queue that becomes due does (R139, R141, R143). -/
theorem Notice.evalDue_eq (c : QueueConfig) (count now : Nat) : n.evalDue q c count now synced =
    let due := isDue c count n.levels[q] now
    let becomes := due = true ∧ n.levels[q].due = false
    { n with
      levels := n.levels.set q { n.levels[q] with due := due }
      state := if becomes ∧ n.state = .quiet ∧ n.enabled = true ∧ synced = true then .waitingLink else n.state
      dirty := n.dirty || decide (becomes ∧ n.state = .awaitingAck ∧ ¬∃ sn, n.snapshot = some sn ∧ sn.due[q] = true) } := by
  unfold Notice.evalDue
  dsimp only
  by_cases becomes : isDue c count n.levels[q] now = true ∧ n.levels[q].due = false
  · obtain ⟨due, notBefore⟩ := becomes
    rw [due, notBefore, if_pos (by rfl), Notice.becameDue_eq (by simp [Notice.setLevel])]
    simp only [true_and, Notice.setLevel]
    rfl
  · rw [if_neg (by simpa using becomes)]
    simp only [becomes, false_and, if_false, decide_false, Bool.or_false]
    rfl

/-- The same for a level that has just been written. -/
theorem Notice.evalDue_setLevel (c : QueueConfig) (l : Level) (count now : Nat) :
    (n.setLevel q l).evalDue q c count now synced =
      let due := isDue c count l now
      let becomes := due = true ∧ l.due = false
      { n with
        levels := n.levels.set q { l with due := due }
        state := if becomes ∧ n.state = .quiet ∧ n.enabled = true ∧ synced = true then .waitingLink else n.state
        dirty := n.dirty || decide (becomes ∧ n.state = .awaitingAck ∧ ¬∃ sn, n.snapshot = some sn ∧ sn.due[q] = true) } := by
  have level : (n.levels.set q l)[q] = l := by simp
  rw [Notice.evalDue_eq]
  simp only [Notice.setLevel, level, vector_set_set]

theorem followLevel_eq (l : Level) (old new now : Nat) : followLevel l old new now =
    ⟨if new ≤ l.reported then new else l.reported,
      if new ≤ l.reported then none else if old ≤ l.reported then some now else l.since, l.due⟩ := by
  unfold followLevel
  split
  · rfl
  · split <;> rfl

end

/-- Settles O45: the level follows the count, and then its due state is evaluated afresh. -/
theorem levelFollowsTheQueuedCount : Obligations.LevelFollowsTheQueuedCount := by
  intro n q c old new now synced l reported since due becomes
  have due_eq : isDue c new ⟨reported, since, l.due⟩ now = due := by
    rw [Bool.eq_iff_iff, isDue_iff, decide_eq_true_iff]
  unfold Notice.follow
  rw [followLevel_eq, Notice.evalDue_setLevel]
  change (let due := isDue c new ⟨reported, since, l.due⟩ now; _) = _
  rw [due_eq]

/-! ## The timers (R139, R147) -/

/-- Settles O46: the queue whose hold expiry is reached is due, and the renotice is a request. -/
theorem noticeTimersExpire : Obligations.NoticeTimersExpire := by
  refine ⟨fun s q t running since hold reached above => ?_, fun s d running awaiting timer reached => ?_⟩
  · intro n becomes
    have deadline : holdDeadline (s.queue q).config s.notice.levels[q] = some (t + 1000 * (s.queue q).config.noticeHold) := by
      rw [holdDeadline, if_neg hold, since]
      rfl
    have due : isDue (s.queue q).config (s.queue q).queued s.notice.levels[q] s.clock = true :=
      isDue_iff.mpr ⟨above, .inr ⟨hold, t, since, reached⟩⟩
    refine (State.event_next running _).trans (congrArg _ ?_)
    dsimp only
    rw [deadline, if_pos (expired_some reached)]
    unfold State.evalDue
    have synced : (s.synced = true) = (s.link.state ≠ .unsynced) := propext decide_eq_true_iff
    rw [Notice.evalDue_eq, due]
    simp only [true_and, synced]
    rfl
  · refine (State.event_next running _).trans (congrArg _ (if_pos ⟨awaiting, ?_⟩))
    rw [timer, expired_some reached]

/-! ## NOTICE_CONFIG (R18, R148) -/

theorem noticeConfigArg_eq (enable i1 i0 w1 w0 : Byte) : noticeConfigArg [enable, i1, i0, w1, w0] =
    if 1 < enable.toNat ∨ (nat16 i1 i0 ≠ 0 ∧ (nat16 i1 i0 < 10 ∨ 60000 < nat16 i1 i0)) ∨ 1023 < nat16 w1 w0 then none
    else some (decide (enable = 1), nat16 i1 i0, nat16 w1 w0) := by
  unfold noticeConfigArg
  dsimp only
  split
  case isTrue ok => exact (if_neg (by omega)).symm
  case isFalse bad => exact (if_pos (by omega)).symm

/-- A new watermark is tested at once: the store may be low by it, or it may rearm the warning (R17, R18). -/
theorem State.setWatermark_eq (w : Nat) (s : State) : s.setWatermark w =
    let low := s.store.armed = true ∧ w ≠ 0 ∧ s.store.freeDescriptors < w
    { s with
      store := { s.store with
        watermark := w
        armed := if low then false else s.store.armed || decide (min (w + 32) 1024 ≤ s.store.freeDescriptors) }
      notice := if low then s.notice.raise .storeLow 0 s.synced else s.notice } := by
  unfold State.setWatermark
  dsimp only
  rw [State.storeLowTest_eq]
  dsimp only
  cases armed : s.store.armed with
  | false => simp [rearmLevel]
  | true =>
    by_cases low : w ≠ 0 ∧ s.store.freeDescriptors < w
    · simp [low, State.synced]
    · simp [low]

/-- A running renotice timer keeps its deadline, and one that stands starts, but with an interval of 0 (R147). -/
theorem Notice.renoticeStarted_eq (now : Nat) {m : Notice} (enabled : m.enabled = true) :
    (if m.renotice.isSome then m else { m with renotice := m.renoticeDeadline now }) =
      if m.renotice = none ∧ m.interval ≠ 0 then { m with renotice := some (now + 1000 * m.interval) } else m := by
  by_cases timer : m.renotice = none
  · rw [if_neg (by simp [timer])]
    by_cases zero : m.interval = 0
    · have noDeadline : m.renoticeDeadline now = m.renotice := by rw [timer]; exact if_neg fun h => h.1 zero
      rw [if_neg fun h => h.2 zero, noDeadline]
    · rw [if_pos ⟨timer, zero⟩, Notice.renoticeDeadline, if_pos ⟨zero, enabled⟩]
  · rw [if_pos (Option.isSome_iff_ne_none.mpr timer), if_neg fun h => timer h.1]

/-- What the enable value does to the notice state (R147, R148). -/
theorem Notice.applyEnable_eq (now : Nat) (synced : Bool) (m : Notice) : m.applyEnable now synced =
    match m.state, m.enabled with
    | .quiet, true => if m.wanted = true ∧ synced = true then { m with state := .waitingLink } else m
    | .waitingLink, false => { m with state := .quiet }
    | .awaitingAck, false => { m with renotice := none }
    | .awaitingAck, true =>
      if m.renotice = none ∧ m.interval ≠ 0 then { m with renotice := some (now + 1000 * m.interval) } else m
    | .quiet, false | .waitingLink, true => m := by
  unfold Notice.applyEnable
  cases state : m.state <;> cases enabled : m.enabled
  case quiet.true => simp only [Notice.request, state, enabled, true_and]
  case awaitingAck.true => simpa only [state, enabled] using Notice.renoticeStarted_eq now enabled
  all_goals rfl

/-- Settles O48: the values are refused, or taken with the test of the store and the test of the notice state. -/
theorem noticeConfigTakesThreeValues : Obligations.NoticeConfigTakesThreeValues := by
  intro s r rest enable i1 i0 w1 w0 starts kind body interval watermark st low n m
  have length : bodyLengthOk r = true := by simp [bodyLengthOk, kind, body, requestLength]
  have arg := noticeConfigArg_eq enable i1 i0 w1 w0
  by_cases bad : 1 < enable.toNat ∨ (interval ≠ 0 ∧ (interval < 10 ∨ 60000 < interval)) ∨ 1023 < watermark
  · rw [if_pos bad] at arg ⊢
    refine State.request_of_reply starts kind length ?_
    unfold noticeConfigAct
    rw [body, arg]
    rfl
  · rw [if_neg bad] at arg ⊢
    have act : noticeConfigAct r.body s.popRequest = ({ s.popRequest with
        store := { st with
          watermark := watermark
          armed := if low then false else st.armed || decide (min (watermark + 32) 1024 ≤ st.freeDescriptors) }
        notice := m.applyEnable s.clock s.synced }, [0x00]) := by
      unfold noticeConfigAct
      rw [body, arg]
      dsimp only
      rw [State.setWatermark_eq]
      rfl
    have interval_eq : m.interval = interval := by
      change (if low then n.raise .storeLow 0 s.synced else n).interval = interval
      split
      · exact Notice.raise_interval _ _ _ _
      · rfl
    have synced : (s.synced = true) = (s.link.state ≠ .unsynced) := propext decide_eq_true_iff
    refine (State.request_of_act starts kind length act rfl).trans (congrArg _ ?_)
    rw [Notice.applyEnable_eq, interval_eq]
    simp only [synced]
    rfl

end Sys2Proof.Machine
end

section
/-! Admission to a delivery queue (R97, R99 to R101, R110). -/
namespace Sys2Proof.Machine

section
variable {s : State} {q : QueueId}

/-- What an admission counts (R110). -/
def QueueCounters.admitting (spill : Bool) (c : QueueCounters) : QueueCounters :=
  if spill then { c with spilledIn := bump c.spilledIn } else { c with admitted := bump c.admitted }

/-- A record under the admission number it takes in queue q (R97). -/
def Record.admittedTo (q : QueueId) (number : Word) (r : Record) : Record := { r with admission := some number, queue := some q }

/-- A record at the tail of the queue, under the next admission number (R97, R99). -/
theorem State.enqueue_eq (spill : Bool) (r : Record) (s : State) : s.enqueue q spill r =
    let x := s.queue q
    let number := x.admissionCounter + 1
    { s with
      queues := s.queues.set q { x with
        list := x.list ++ [r.admittedTo q number]
        charge := x.charge + 1
        admissionCounter := number
        counters := x.counters.admitting spill }
      notice := s.notice.follow q x.config x.list.length (x.list.length + 1) s.clock s.synced } := by
  unfold State.enqueue
  simp only [State.countQueue, State.chargeUp, State.setCharge, State.setList, State.setQueue, State.queue, vector_set_same,
    Vector.set_set, Queue.queued, List.length_append, List.length_singleton]
  rfl

/-- A full queue refuses a record (R100, R110). -/
theorem State.refuseFull_eq (r : Record) (s : State) : s.refuseFull q r = { s with
    store := s.store.free r
    queues := s.queues.set q { s.queue q with
      counters := { (s.queue q).counters with refusedFull := bump (s.queue q).counters.refusedFull } }
    notice := s.notice.raise .queueOverflow (queueBit q) s.synced } := rfl

/-- A full queue evicts its head (R101). -/
theorem State.evictHead_eq (head : Record) (rest : List Record) (s : State) : s.evictHead q head rest = { s with
    store := s.store.free head
    queues := s.queues.set q { s.queue q with
      list := rest
      charge := (s.queue q).charge - 1
      counters := { (s.queue q).counters with evicted := bump (s.queue q).counters.evicted } }
    notice := s.notice.follow q (s.queue q).config (s.queue q).list.length rest.length s.clock s.synced } := by
  unfold State.evictHead
  simp only [State.freeRecord, State.countQueue, State.chargeDown, State.setCharge, State.setList, State.setQueue, State.queue,
    vector_set_same, Vector.set_set, Queue.queued]
  rfl

end

/-- Settles O35: the queue with room admits; a full one refuses, or evicts its head and then admits. -/
theorem admissionByChargeAndPolicy : Obligations.AdmissionByChargeAndPolicy := by
  intro s q spill r x number admitted counted refused
  unfold State.offer
  dsimp only
  by_cases room : x.charge < x.config.depthLimit
  · rw [if_pos room, if_pos room, State.enqueue_eq]
    rfl
  · rw [if_neg room, if_neg room]
    cases policy : x.config.policy with
    | refuseNew =>
      rw [if_pos rfl]
      cases x.list <;> exact State.refuseFull_eq r s
    | dropOldest =>
      rw [if_neg (by decide)]
      cases list : x.list with
      | nil => exact State.refuseFull_eq r s
      | cons head rest =>
        have length : (s.queue q).list.length = rest.length + 1 := congrArg List.length list
        dsimp only
        rw [State.evictHead_eq, State.enqueue_eq, length]
        simp only [State.queue, vector_set_same, Vector.set_set]
        rfl

end Sys2Proof.Machine
end

section
/-! The body of a FETCH response (R119, R122, R190). -/
namespace Sys2Proof.Machine

/-! ## One entry -/

/-- The flags of an entry are five bits of it (R190). -/
theorem entryFlags_eq (r : Record) (redelivered handle : Bool) : entryFlags r redelivered handle =
    flagByte r.missing.isSome + 2 * flagByte r.label.isSome + 4 * flagByte redelivered + 8 * flagByte r.spilled +
      16 * flagByte handle := by
  have bits : ∀ a b c d e : Bool,
      flagByte a ||| (flagByte b <<< 1) ||| (flagByte c <<< 2) ||| (flagByte d <<< 3) ||| (flagByte e <<< 4) =
        flagByte a + 2 * flagByte b + 4 * flagByte c + 8 * flagByte d + 16 * flagByte e := by decide
  exact bits _ _ _ _ _

theorem entryBytes_eq {r : Record} {q : QueueId} (queue : r.queue = some q) (redelivered : Bool) (handle : Option Half) :
    entryBytes r redelivered handle =
      [flagByte r.missing.isSome + 2 * flagByte r.label.isSome + 4 * flagByte redelivered + 8 * flagByte r.spilled +
        16 * flagByte handle.isSome, byteOf q.val, byteOf r.lane.val, r.kind] ++
      be16 r.channel ++ be16 r.seq ++ be32 r.sourceTime ++ be32 (r.arrival.getD 0) ++ be16 (r.generation.getD 0) ++
      [byteOf r.deliveryCount, byteOf r.payloadLength] ++ (match handle with | some h => be16 h | none => []) ++
      r.label.toList ++ (match r.missing with | some m => be16Nat m | none => []) ++ r.payload := by
  unfold entryBytes
  rw [entryFlags_eq, queue]
  cases handle <;> cases r.label <;> cases r.missing <;> rfl

theorem length_optBytes {α : Type} {f : α → List Byte} {k : Nat} (size : ∀ x, (f x).length = k) (o : Option α) :
    (optBytes f o).length = if o.isSome then k else 0 := by
  cases o with
  | none => rfl
  | some x => exact size x

theorem entrySize_eq (mode : FetchMode) (r : Record) : entrySize mode r =
    20 + (if mode = .claim then 2 else 0) + (if r.label.isSome then 1 else 0) + (if r.missing.isSome then 2 else 0) +
      r.payloadLength := by
  cases mode <;> rfl

/-- An entry is as long as R119 counts it, when the payload is whole and a handle stands in it in CLAIM mode. -/
theorem length_entryBytes {r : Record} {mode : FetchMode} {handle : Option Half} (whole : r.payload.length = r.payloadLength)
    (redelivered : Bool) (claims : handle.isSome = decide (mode = .claim)) :
    (entryBytes r redelivered handle).length = entrySize mode r := by
  unfold entryBytes
  rw [entrySize_eq, ← whole]
  simp only [List.length_append, length_optBytes (f := be16) (k := 2) (fun _ => rfl),
    length_optBytes (f := be16Nat) (k := 2) (fun _ => rfl), length_optBytes (f := fun l : Byte => [l]) (k := 1) (fun _ => rfl), claims, decide_eq_true_eq]
  simp [be16, be32]

/-! ## One delivery after another (R119) -/

section
variable {s t : State} {mode : FetchMode} {q : QueueId} {used : Nat} {entry : List Byte}

/-- The payload of every record in the queue's list is whole. -/
def State.WholeRecords (s : State) (q : QueueId) : Prop := ∀ r ∈ (s.queue q).list, r.payload.length = r.payloadLength

theorem State.claimHead_list (r : Record) (rest : List Record) (i : SlotId) :
    ((s.claimHead q r rest i).1.queue q).list = rest := by
  simp [State.claimHead, State.countQueue, State.setSlot, State.setList, State.setQueue, State.queue]

theorem State.takeHead_list (r : Record) (rest : List Record) : ((s.takeHead q r rest).1.queue q).list = rest := by
  simp [State.takeHead, State.countQueue, State.freeRecord, State.chargeDown, State.setCharge, State.setList, State.setQueue,
    State.queue]

/-- A delivery fits behind what has been placed, and leaves whole records behind. -/
theorem State.deliverHead_fits (whole : s.WholeRecords q) (delivers : s.deliverHead mode q used = some (t, entry)) :
    used + entry.length ≤ 1022 ∧ t.WholeRecords q := by
  unfold State.deliverHead at delivers
  cases list : (s.queue q).list with
  | nil => rw [list] at delivers; cases delivers
  | cons r rest =>
    have head := whole r (by rw [list]; exact List.mem_cons_self)
    have behind : ∀ x ∈ rest, x.payload.length = x.payloadLength := fun x mem =>
      whole x (by rw [list]; exact List.mem_cons_of_mem _ mem)
    rw [list] at delivers
    dsimp only at delivers
    split at delivers
    · cases delivers
    · rename_i fits
      cases mode with
      | take =>
        cases delivers
        refine ⟨?_, fun x mem => behind x (State.takeHead_list (s := s) r rest ▸ mem)⟩
        have size := length_entryBytes (mode := .take) (handle := none) head (decide (1 ≤ r.deliveryCount)) rfl
        exact (congrArg (used + ·) size).trans_le (Nat.not_lt.mp fits)
      | claim =>
        obtain ⟨i, -, claimed⟩ := Option.map_eq_some_iff.mp delivers
        cases claimed
        refine ⟨?_, fun x mem => behind x (State.claimHead_list (s := s) r rest i ▸ mem)⟩
        have size := length_entryBytes (r := { r with deliveryCount := satAdd 255 r.deliveryCount 1 }) (mode := .claim)
          (handle := some (handleOf (s.slot i).issue i)) head (decide (1 < satAdd 255 r.deliveryCount 1)) rfl
        exact (congrArg (used + ·) size).trans_le (Nat.not_lt.mp fits)

theorem State.deliverMany_fits (k : Nat) (whole : s.WholeRecords q) (room : used ≤ 1022) :
    (s.deliverMany mode q k used).2.length ≤ k ∧ used + (s.deliverMany mode q k used).2.flatten.length ≤ 1022 := by
  induction k generalizing s used with
  | zero => exact ⟨le_rfl, room⟩
  | succ k ih =>
    unfold State.deliverMany
    cases delivers : s.deliverHead mode q used with
    | none => exact ⟨Nat.zero_le _, room⟩
    | some out =>
      obtain ⟨t, entry⟩ := out
      obtain ⟨fits, whole⟩ := State.deliverHead_fits whole delivers
      obtain ⟨count, size⟩ := ih whole fits
      refine ⟨Nat.succ_le_succ count, ?_⟩
      change used + (entry ++ _).length ≤ 1022
      rw [List.length_append, ← Nat.add_assoc]
      exact size

end

/-- Settles O41: each delivery is made only when its entry fits, and its entry is as long as it was counted. -/
theorem fetchResponseFitsItsLayout : Obligations.FetchResponseFitsItsLayout := by
  refine ⟨fun s mode q k fields => ?_, fun r q redelivered handle queue => entryBytes_eq queue redelivered handle⟩
  obtain ⟨-, -, -, queued, -⟩ := fields
  have whole : s.WholeRecords q := fun r mem => by
    obtain ⟨-, ⟨complete, -⟩, -⟩ := queued q r mem
    exact complete
  obtain ⟨count, size⟩ := State.deliverMany_fits (mode := mode) k whole (Nat.zero_le 1022)
  exact ⟨count, by omega⟩

end Sys2Proof.Machine
end

section
/-! Credit granted until no more can be (R10, R12, R21), and what a STORE reset leaves (R177). -/
namespace Sys2Proof.Machine

/-! ## Grants, one after another -/

/-- What a credit can change of a lane: its limit and what the CREDIT test makes due (R10, R65, R66). -/
def Lane.Granted (l m : Lane) : Prop :=
  ∃ limit lastSent refresh sending waiting, m = { l with
    limit := limit, lastSent := lastSent, timers := { l.timers with refresh := refresh }, sending := sending,
    waiting := waiting }

theorem Lane.Granted.refl (l : Lane) : l.Granted l := ⟨l.limit, l.lastSent, l.timers.refresh, l.sending, l.waiting, rfl⟩

theorem Lane.Granted.trans {a b c : Lane} (first : a.Granted b) (second : b.Granted c) : a.Granted c := by
  obtain ⟨_, _, _, _, _, rfl⟩ := first
  obtain ⟨limit, lastSent, refresh, sending, waiting, rfl⟩ := second
  exact ⟨limit, lastSent, refresh, sending, waiting, rfl⟩

theorem Lane.granted_makeDue (f : LaneFrame) (l : Lane) : l.Granted (l.makeDue f) := by
  rw [Lane.makeDue_eq]
  split <;> exact ⟨_, _, _, _, _, rfl⟩

theorem Lane.granted_dueCredit (now : Nat) (l : Lane) : l.Granted (l.dueCredit now) := by
  have restarted : l.Granted { l with lastSent := l.limit, timers := { l.timers with refresh := some (now + 50000) } } :=
    ⟨_, _, _, _, _, rfl⟩
  unfold Lane.dueCredit
  dsimp only
  split
  · exact restarted.trans ⟨_, _, _, _, _, rfl⟩
  · exact restarted.trans (Lane.granted_makeDue _ _)

theorem Lane.granted_grant (now : Nat) (l : Lane) :
    l.Granted (({ l with limit := l.limit + 1 } : Lane).testCreditAfterGrant now) := by
  have raised : l.Granted { l with limit := l.limit + 1 } := ⟨_, _, _, _, _, rfl⟩
  unfold Lane.testCreditAfterGrant
  split
  · exact raised.trans (Lane.granted_dueCredit _ _)
  · exact raised

/-- A credit widens the window by one (R7, R10). -/
theorem Lane.reservation_grant {l : Lane} (now : Nat) (small : l.reservation < 64) :
    (({ l with limit := l.limit + 1 } : Lane).testCreditAfterGrant now).reservation = l.reservation + 1 := by
  rw [(Lane.sw_testGrant _ _).reservation]
  have next : (l.limit + 1 - l.e + 1 : Half) = (l.limit - l.e + 1) + 1 := by ring
  unfold Lane.reservation at small ⊢
  change (l.limit + 1 - l.e + 1 : Half).toNat = _
  rw [next, BitVec.toNat_add]
  exact Nat.mod_eq_of_lt (show _ + 1 < 65536 by omega)

section
variable {s : State} {n : LaneId}

/-- What the grants change of the part: the lanes that are ACTIVE, and the pointer (R10, R11). -/
structure Granting (s t : State) : Prop where
  rest : ∃ lanes pointer, t = { s with lanes := lanes, store := { s.store with pointer := pointer } }
  active : ∀ n, (s.lane n).Granted (t.lane n)
  idle : ∀ n, (s.lane n).state ≠ .active → t.lane n = s.lane n

theorem Granting.refl (s : State) : Granting s s := ⟨⟨_, _, rfl⟩, fun _ => .refl _, fun _ _ => rfl⟩

theorem Granting.trans {a b c : State} (first : Granting a b) (second : Granting b c) : Granting a c := by
  refine ⟨?_, fun n => (first.active n).trans (second.active n), fun n idle => ?_⟩
  · obtain ⟨⟨_, _, rfl⟩, -, -⟩ := first
    obtain ⟨⟨lanes, pointer, rfl⟩, -, -⟩ := second
    exact ⟨lanes, pointer, rfl⟩
  · have same := first.idle n idle
    exact (second.idle n (same ▸ idle)).trans same

theorem State.lane_grantTo (s : State) (n m : LaneId) : (s.grantTo n).lane m =
    if n = m then ({ s.lane n with limit := (s.lane n).limit + 1 } : Lane).testCreditAfterGrant s.clock else s.lane m :=
  State.lane_mapLane s n m fun l => ({ l with limit := l.limit + 1 } : Lane).testCreditAfterGrant s.clock

theorem State.grant_granting (s : State) : Granting s s.grant := by
  cases grantee : s.grantee with
  | none => rw [State.grant_of_no_grantee grantee]; exact .refl s
  | some n =>
    obtain ⟨-, eligible⟩ := State.grantee_eligible grantee
    obtain ⟨active, -⟩ := (Lane.eligible_iff _).mp eligible
    rw [State.grant_of_grantee grantee]
    refine ⟨⟨_, _, State.grantTo_eq s n⟩, fun m => ?_, fun m idle => ?_⟩
    · rw [State.lane_grantTo]
      split
      case isTrue same => exact same ▸ Lane.granted_grant _ _
      case isFalse => exact .refl _
    · rw [State.lane_grantTo, if_neg]
      rintro rfl
      exact idle active

theorem State.grantMany_granting (k : Nat) (s : State) : Granting s (s.grantMany k) := by
  induction k generalizing s with
  | zero => exact .refl s
  | succ k ih => exact s.grant_granting.trans (ih s.grant)

/-- A credit raises the sum of the four accounts by one (R7). -/
theorem State.reserved_grant (law : CreditLaw s) (grantee : s.grantee = some n) : s.grant.reserved = s.reserved + 1 := by
  obtain ⟨-, eligible⟩ := State.grantee_eligible grantee
  obtain ⟨-, below⟩ := (Lane.eligible_iff _).mp eligible
  obtain ⟨-, most, -⟩ := law.1 n
  have moved := s.reserved_mapLane n fun l => ({ l with limit := l.limit + 1 } : Lane).testCreditAfterGrant s.clock
  have raised := Lane.reservation_grant s.clock (below.trans_le most)
  have same : (s.grantTo n).reserved =
    (s.mapLane n fun l => ({ l with limit := l.limit + 1 } : Lane).testCreditAfterGrant s.clock).reserved := rfl
  rw [State.grant_of_grantee grantee, same]
  omega

theorem State.grantMany_of_no_grantee (k : Nat) (idle : s.grantee = none) : s.grantMany k = s := by
  induction k with
  | zero => rfl
  | succ k ih =>
    change s.grant.grantMany k = s
    rw [State.grant_of_no_grantee idle, ih]

/-- With 256 credits, less those there are, no further one can be granted (R12, R21): the four caps are at most 64 each. -/
theorem State.grantMany_settles (k : Nat) (running : s.running = true) (law : CreditLaw s) (enough : 256 ≤ s.reserved + k) :
    Grants s (s.grantMany k) ∧ (s.grantMany k).grantee = none := by
  have settled {u : State} (running : u.running = true) (idle : u.grantee = none) : Grants u u :=
    .done u (by rw [exec_creditGrant_of_running running, State.grant_of_no_grantee idle])
  induction k generalizing s with
  | zero =>
    have idle : s.grantee = none := by
      cases grantee : s.grantee with
      | none => rfl
      | some n =>
        have most := law.grant.reserved_le
        rw [State.reserved_grant law grantee] at most
        omega
    exact ⟨settled running idle, idle⟩
  | succ k ih =>
    cases grantee : s.grantee with
    | none =>
      rw [State.grantMany_of_no_grantee _ grantee]
      exact ⟨settled running grantee, grantee⟩
    | some n =>
      have raised := State.reserved_grant law grantee
      have differs : s.grant ≠ s := fun same => by rw [same] at raised; omega
      have stillRunning : s.grant.running = true := by
        obtain ⟨⟨_, _, rest⟩, -, -⟩ := s.grant_granting
        rw [rest]
        exact running
      obtain ⟨grants, idle⟩ := ih stillRunning law.grant (by omega)
      exact ⟨.more s s.grant _ (exec_creditGrant_of_running running) differs grants, idle⟩

/-- Where there is room and no grant can be made, no lane is eligible (R10, R11). -/
theorem State.eligible_of_no_grantee (room : s.creditRoom = true) (idle : s.grantee = none) (n : LaneId) :
    ¬(s.lane n).eligible = true := by
  rw [State.grantee_eq, if_pos room, List.find?_eq_none] at idle
  refine idle n (List.mem_map.mpr ⟨n - s.store.pointer, List.mem_finRange _, ?_⟩)
  exact add_sub_cancel _ _

/-- Grants that go on until no more can be made fill every ACTIVE lane to its cap, when there is room (R10, R12). -/
theorem State.full_of_no_grantee (law : CreditLaw s) (room : s.creditRoom = true) (idle : s.grantee = none)
    (active : (s.lane n).state = .active) : (s.lane n).reservation = (s.lane n).config.creditCap := by
  obtain ⟨-, -, within, -⟩ := law.1 n
  have session : (s.lane n).inSession = true := by simp [Lane.inSession, active]
  have full := mt (Lane.eligible_iff _).mpr (State.eligible_of_no_grantee room idle n)
  exact (within session).antisymm (Nat.not_lt.mp fun below => full ⟨active, below⟩)

/-- The grants do not look at the link. -/
theorem State.grantMany_withLink (k : Nat) (link : Link) (s : State) :
    ({ s with link := link } : State).grantMany k = { s.grantMany k with link := link } := by
  have once (s : State) : ({ s with link := link } : State).grant = { s.grant with link := link } := by
    have same : ({ s with link := link } : State).grantee = s.grantee := rfl
    unfold State.grant
    rw [same]
    cases s.grantee <;> rfl
  induction k generalizing s with
  | zero => rfl
  | succ k ih =>
    change ({ s with link := link } : State).grant.grantMany k = _
    rw [once, ih]
    rfl

end

/-! ## The closes that a STORE reset ends (R41, R47) -/

section
variable {s : State}

/-- The alerts of the lanes in a list whose closing has used its window up. -/
def State.closeAlerts (s : State) (lanes : List LaneId) (m : Notice) : Notice :=
  lanes.foldl (fun m n => if s.usedUp n then m.raise .laneClosed (laneBit n) s.synced else m) m

/-- The window test of each lane of a list without repetition, while no lane assembles (R41). -/
theorem State.foldl_checkWindow {lanes : List LaneId} (distinct : lanes.Nodup) (s : State)
    (idle : ∀ n, (s.lane n).assembly = none) : lanes.foldl (fun s n => s.checkWindow n) s = { s with
      lanes := Vector.ofFn fun n => if n ∈ lanes ∧ s.usedUp n then (s.lane n).ended else s.lane n
      notice := s.closeAlerts lanes s.notice } := by
  induction lanes generalizing s with
  | nil =>
    have same : s.lanes = Vector.ofFn fun n => s.lane n := by ext i hi; simp [State.lane]
    simp only [List.foldl_nil, List.not_mem_nil, false_and, if_false, ← same]
    rfl
  | cons k rest ih =>
    obtain ⟨fresh, distinct⟩ := List.nodup_cons.mp distinct
    rw [List.foldl_cons, State.checkWindow_eq, State.windowTested]
    by_cases used : s.usedUp k
    · have closed : s.closed k = { s with
          lanes := s.lanes.set k (s.lane k).ended, notice := s.notice.raise .laneClosed (laneBit k) s.synced } := by
        rw [State.closed, idle]
        rfl
      have lane (n : LaneId) : (s.closed k).lane n = if k = n then (s.lane k).ended else s.lane n := by
        rw [closed]
        exact vector_set_get _ _ _ _
      have others (n : LaneId) (other : k ≠ n) : (s.closed k).usedUp n ↔ s.usedUp n := by
        have same : (s.closed k).lane n = s.lane n := by rw [lane, if_neg other]
        unfold State.usedUp
        rw [same]
      have entries (n : LaneId) :
          (if n ∈ rest ∧ (s.closed k).usedUp n then ((s.closed k).lane n).ended else (s.closed k).lane n) =
            if n ∈ k :: rest ∧ s.usedUp n then (s.lane n).ended else s.lane n := by
        by_cases same : k = n
        · subst same
          rw [if_neg fun h => fresh h.1, lane, if_pos rfl, if_pos ⟨List.mem_cons_self, used⟩]
        · have mem : n ∈ k :: rest ↔ n ∈ rest := by simp [Ne.symm same]
          have kept : (s.closed k).lane n = s.lane n := by rw [lane, if_neg same]
          exact if_congr (and_congr mem.symm (others n same)) (congrArg Lane.ended kept) kept
      have alerts : (s.closed k).closeAlerts rest (s.closed k).notice = s.closeAlerts (k :: rest) s.notice := by
        have notice : (s.closed k).notice = s.notice.raise .laneClosed (laneBit k) s.synced := by rw [closed]
        unfold State.closeAlerts
        rw [List.foldl_cons, if_pos used, notice]
        refine List.foldl_ext _ _ _ fun m n mem => ?_
        exact if_congr (others n fun same => fresh (same ▸ mem)) rfl rfl
      rw [if_pos ⟨used.1, used.2, idle k⟩, ih distinct (s.closed k) fun n => by rw [lane]; split <;> [rfl; exact idle n]]
      simp only [entries, alerts]
      rw [closed]
    · have entries (n : LaneId) : (if n ∈ rest ∧ s.usedUp n then (s.lane n).ended else s.lane n) =
          if n ∈ k :: rest ∧ s.usedUp n then (s.lane n).ended else s.lane n := by
        refine if_congr (and_congr_left fun usedUp => ?_) rfl rfl
        have other : n ≠ k := fun same => used (same ▸ usedUp)
        simp [other]
      have alerts : s.closeAlerts rest s.notice = s.closeAlerts (k :: rest) s.notice := by
        unfold State.closeAlerts
        rw [List.foldl_cons, if_neg used]
      rw [if_neg fun h => used ⟨h.1, h.2.1⟩, ih distinct s idle]
      simp only [entries, alerts]

/-! ## The one event of a STORE reset (R177) -/

/-- A STORE reset at a lane (R47, R62). -/
theorem Lane.storeReset_eq (l : Lane) : l.storeReset = l.emptied := by
  obtain ⟨_, _, _, _, _, _, _, assembly, _, _, _, _, _, _, _⟩ := l
  cases assembly <;> rfl

theorem State.lane_storeResetBlocks (s : State) (n : LaneId) : s.storeResetBlocks.lane n = (s.lane n).emptied :=
  (mapVec_get Lane.storeReset s.lanes n).trans (Lane.storeReset_eq _)

theorem mapVec_eq_ofFn {α β : Type} {k : Nat} (f : α → β) (v : Vector α k) :
    mapVec f v = Vector.ofFn fun i : Fin k => f v[i] := by
  ext i hi
  rw [Vector.getElem_ofFn]
  exact mapVec_get f v ⟨i, hi⟩

/-- The event and the closes it ends leave the part as `State.emptied` says. -/
theorem State.emptied_eq (s : State) :
    allLanes.foldl (fun s n => s.checkWindow n) s.storeResetBlocks = s.emptied := by
  have used (n : LaneId) : s.storeResetBlocks.usedUp n ↔ s.usedUp n := by
    unfold State.usedUp
    rw [State.lane_storeResetBlocks]
    exact Iff.rfl
  have every (n : LaneId) : n ∈ allLanes := by
    revert n
    decide
  have lane (n : LaneId) : (if n ∈ allLanes ∧ s.storeResetBlocks.usedUp n then (s.storeResetBlocks.lane n).ended
      else s.storeResetBlocks.lane n) = if s.usedUp n then (s.lane n).emptied.ended else (s.lane n).emptied :=
    if_congr ((and_iff_right (every n)).trans (used n)) (congrArg Lane.ended (s.lane_storeResetBlocks n))
      (s.lane_storeResetBlocks n)
  have alerts : s.storeResetBlocks.closeAlerts allLanes s.notice.storeReset = s.closeAlerts allLanes s.notice.storeReset :=
    List.foldl_ext _ _ _ fun m n _ => if_congr (used n) rfl rfl
  have classifier : s.classifier.storeReset = { s.classifier with
      intake := []
      walk := none
      counters := { s.classifier.counters with
        abandoned := if s.classifier.walk.isSome then bump s.classifier.counters.abandoned
          else s.classifier.counters.abandoned } } := by
    unfold Classifier.storeReset
    split <;> rfl
  have queues : mapVec Queue.storeReset s.queues = Vector.ofFn fun q => { s.queue q with list := [], charge := 0 } :=
    mapVec_eq_ofFn _ _
  have slots : mapVec Slot.storeReset s.slots = Vector.ofFn fun i => ⟨(s.slot i).issue + 1, none⟩ := mapVec_eq_ofFn _ _
  have levels : s.notice.storeReset = { s.notice with levels := Vector.replicate 8 ⟨0, none, false⟩ } := rfl
  have store : s.store.storeReset = { s.store with freeDescriptors := 1024, freeBlocks := 2048, armed := true } := rfl
  rw [State.foldl_checkWindow (by decide) _ fun n => by rw [State.lane_storeResetBlocks]; rfl]
  simp only [lane]
  change ({ s.storeResetBlocks with lanes := _, notice := s.storeResetBlocks.closeAlerts allLanes s.notice.storeReset } : State) = _
  rw [alerts]
  unfold State.storeResetBlocks State.emptied
  rw [classifier, queues, slots, store]
  unfold State.closeAlerts allLanes
  rw [levels]

end

end Sys2Proof.Machine
end

section
/-! RESET(STORE) (R21, R47, R93, R113, R135, R151, R170, R177). -/
namespace Sys2Proof.Machine

section
variable {s : State}

/-! ## The alerts of the closes it ends -/

/-- The alerts change the alert set, the dirty flag and the state alone (R137, R141, R143). -/
theorem State.closeAlerts_keeps (s : State) (lanes : List LaneId) (m : Notice) :
    ∃ alerts dirty state, s.closeAlerts lanes m = { m with alerts := alerts, dirty := dirty, state := state } := by
  induction lanes generalizing m with
  | nil => exact ⟨_, _, _, rfl⟩
  | cons n rest ih =>
    obtain ⟨alerts, dirty, state, first⟩ : ∃ alerts dirty state, (if s.usedUp n then m.raise .laneClosed (laneBit n) s.synced
        else m) = { m with alerts := alerts, dirty := dirty, state := state } := by
      split
      · exact ⟨_, _, _, Notice.raise_eq _ _ _ _⟩
      · exact ⟨_, _, _, rfl⟩
    obtain ⟨alerts, dirty, state, later⟩ := ih { m with alerts := alerts, dirty := dirty, state := state }
    refine ⟨alerts, dirty, state, ?_⟩
    rw [← first] at later
    refine later.trans ?_
    rw [first]

theorem State.closeAlerts_of_unused (unused : ∀ n, ¬s.usedUp n) (lanes : List LaneId) (m : Notice) :
    s.closeAlerts lanes m = m := by
  unfold State.closeAlerts
  exact List.foldlRecOn (motive := (· = m)) lanes _ rfl fun k same n _ => (if_neg (unused n)).trans same

/-! ## The part before the grants -/

theorem State.emptied_notice (s : State) :
    s.emptied.notice = s.closeAlerts allLanes { s.notice with levels := Vector.replicate 8 ⟨0, none, false⟩ } := rfl

theorem State.lane_emptied (s : State) (n : LaneId) :
    s.emptied.lane n = if s.usedUp n then (s.lane n).emptied.ended else (s.lane n).emptied := by
  simp [State.emptied, State.lane]

theorem State.queue_emptied (s : State) (q : QueueId) : s.emptied.queue q = { s.queue q with list := [], charge := 0 } := by
  simp [State.emptied, State.queue]

theorem State.slot_emptied (s : State) (i : SlotId) : s.emptied.slot i = ⟨(s.slot i).issue + 1, none⟩ := by
  simp [State.emptied, State.slot]

theorem CreditLaw.emptied (law : CreditLaw s) : CreditLaw s.emptied := by
  rw [← State.emptied_eq]
  exact List.foldlRecOn allLanes _ law.storeResetBlocks fun _ law n _ => law.checkWindow n

theorem heldRecords_of_empty (lanes : ∀ n, (s.lane n).assembly = none) (intake : s.classifier.intake = [])
    (walk : s.classifier.walk = none) (queues : ∀ q, (s.queue q).list = []) (slots : ∀ i, (s.slot i).occupant = none) :
    heldRecords s = [] := by
  simp [heldRecords, lanes, intake, walk, queues, slots]

/-! ## The part after the grants -/

/-- The part after RESET(STORE), before its answer. -/
@[irreducible] def State.refilled (s : State) : State := s.emptied.grantMany 256

theorem State.refilled_eq (s : State) : s.refilled = s.emptied.grantMany 256 := by unfold State.refilled; rfl

theorem exec_resetStore {r : Frame} {rest : List Frame} (starts : Starts s r rest) (kind : r.kind = 0x5A)
    (body : r.body = [1]) : exec .resetStore s = .next { s.refilled with link := s.link.answered r [0x00] } := by
  have length : bodyLengthOk r = true := by
    rw [bodyLengthOk, kind, body]
    exact decide_eq_true (requestLength_reset _)
  have row : decide (r.kind = Kind.reset ∧ r.body ≠ [0]) = true := by
    rw [body]
    exact decide_eq_true ⟨kind, by decide⟩
  have runs : exec .resetStore s = .next (resetStoreRequest r s.popRequest) :=
    congrArg _ (State.withRequest_starts starts row length)
  have reset : s.popRequest.storeReset = { s.refilled with link := s.popRequest.link } := by
    unfold State.storeReset
    rw [State.emptied_eq, State.refilled_eq]
    exact State.grantMany_withLink 256 s.popRequest.link s.emptied
  rw [runs, resetStoreRequest, if_pos body, reset, State.finish_eq r _ s { s.refilled with link := s.popRequest.link } rfl]
  rfl

theorem State.refilled_granting (s : State) : Granting s.emptied s.refilled := by
  rw [State.refilled_eq]
  exact State.grantMany_granting 256 s.emptied

theorem State.refilled_settled (law : CreditLaw s) (running : s.running = true) :
    Grants s.emptied s.refilled ∧ s.refilled.grantee = none := by
  rw [State.refilled_eq]
  exact State.grantMany_settles (s := s.emptied) 256 running law.emptied (Nat.le_add_left _ _)

/-- Every ACTIVE lane has credit up to its cap (R21). -/
theorem State.refilled_full (law : CreditLaw s) (running : s.running = true) {n : LaneId}
    (active : (s.refilled.lane n).state = .active) :
    (s.refilled.lane n).reservation = (s.refilled.lane n).config.creditCap := by
  obtain ⟨⟨lanes, pointer, rest⟩, -, -⟩ := s.refilled_granting
  obtain ⟨-, settled⟩ := State.refilled_settled law running
  have refilledLaw : CreditLaw s.refilled := by rw [State.refilled_eq]; exact law.emptied.grantMany 256
  have descriptors : s.refilled.store.freeDescriptors = 1024 := by rw [rest]; rfl
  have blocks : s.refilled.store.freeBlocks = 2048 := by rw [rest]; rfl
  have most := refilledLaw.reserved_le
  exact State.full_of_no_grantee refilledLaw ((State.creditRoom_iff _).mpr (by omega)) settled active

/-- What RESET(STORE) leaves of a lane (R21, R47). -/
theorem State.lane_refilled (law : CreditLaw s) (running : s.running = true) (n : LaneId) :
    if (s.lane n).state = .active then
      (s.refilled.lane n).reservation = (s.lane n).config.creditCap ∧ (s.lane n).emptied.Granted (s.refilled.lane n)
    else s.refilled.lane n = if s.usedUp n then (s.lane n).emptied.ended else (s.lane n).emptied := by
  obtain ⟨-, granted, idle⟩ := s.refilled_granting
  have granted := granted n
  have idle := idle n
  rw [State.lane_emptied] at granted idle
  split
  case isTrue active =>
    have open_ : ¬s.usedUp n := fun used => LaneState.noConfusion (active.symm.trans used.1)
    rw [if_neg open_] at granted
    refine ⟨?_, granted⟩
    obtain ⟨limit, lastSent, refresh, sending, waiting, lane⟩ := granted
    rw [State.refilled_full law running (by rw [lane]; exact active), lane]
    rfl
  case isFalse inactive =>
    refine idle ?_
    split
    · exact nofun
    · exact inactive

end

/-- Settles O6: the one event and the closes it ends leave the part as `State.emptied` says, and the grants fill the lanes. -/
theorem resetStoreEmptiesTheStore : Obligations.ResetStoreEmptiesTheStore := by
  intro s r rest starts kind body law
  have running := starts.1
  obtain ⟨⟨lanes, pointer, written⟩, -, -⟩ := s.refilled_granting
  obtain ⟨grants, -⟩ := State.refilled_settled law running
  have lane (n : LaneId) := State.lane_refilled law running n
  have notice : s.refilled.notice = s.closeAlerts allLanes { s.notice with levels := Vector.replicate 8 ⟨0, none, false⟩ } := by
    rw [written]
    rfl
  obtain ⟨alerts, dirty, state, closes⟩ :=
    s.closeAlerts_keeps allLanes { s.notice with levels := Vector.replicate 8 ⟨0, none, false⟩ }
  have kept := notice.trans closes
  have queue (q : QueueId) : s.refilled.queue q = { s.queue q with list := [], charge := 0 } := by
    rw [written]
    exact s.queue_emptied q
  have slot (i : SlotId) : s.refilled.slot i = ⟨(s.slot i).issue + 1, none⟩ := by
    rw [written]
    exact s.slot_emptied i
  have assembly (n : LaneId) : (s.refilled.lane n).assembly = none := by
    have lane := lane n
    split at lane
    · obtain ⟨-, _, _, _, _, _, lane⟩ := lane
      rw [lane]
      rfl
    · rw [lane]
      split <;> rfl
  refine ⟨_, exec_resetStore starts kind body, rfl, ?clock, ?running, ?pending, ?descriptors, ?blocks, ?armed, ?watermark, ?held,
    queue, slot, ?classifier, ?levels, ?tag, ?snapshot, ?renotice, ?enabled, ?interval, fun n => ?lane, fun open_ => ?quiet,
    ?notice, s.refilled, grants, rfl⟩
  case clock | running | pending | descriptors | blocks | armed | watermark | classifier => rw [written]; rfl
  case held =>
    refine heldRecords_of_empty assembly ?_ ?_ (fun q => ?_) fun i => ?_
    · rw [written]; rfl
    · rw [written]; rfl
    · exact congrArg Queue.list (queue q)
    · exact congrArg Slot.occupant (slot i)
  case levels =>
    intro q
    change s.refilled.notice.levels[q] = _
    rw [kept]
    exact Vector.getElem_replicate q.isLt
  case tag | snapshot | renotice | enabled | interval => exact (congrArg _ kept).trans rfl
  case lane => exact lane n
  case quiet =>
    have same := notice.trans (State.closeAlerts_of_unused open_ allLanes _)
    change s.refilled.notice = { s.notice with levels := s.refilled.notice.levels }
    rw [same]
  case notice => exact notice

end Sys2Proof.Machine
end

section
/-! What the bytes of a frame give (R27, R49, R153, R183 to R185). -/
namespace Sys2Proof.Machine

/-! ## The bytes of a field -/

theorem be16_half (hi lo : Byte) : be16 (half hi lo) = [hi, lo] := by
  have bit (i : Nat) : (half hi lo).getLsbD i = if i < 8 then lo.getLsbD i else hi.getLsbD (i - 8) :=
    BitVec.getLsbD_append
  have high : (half hi lo).extractLsb' 8 8 = hi := BitVec.eq_of_getLsbD_eq fun i hi => by
    rw [BitVec.getLsbD_extractLsb', bit, if_neg (by omega)]
    simp [hi]
  have low : (half hi lo).extractLsb' 0 8 = lo := BitVec.eq_of_getLsbD_eq fun i hi => by
    rw [BitVec.getLsbD_extractLsb', bit, if_pos (by omega)]
    simp [hi]
  rw [be16, high, low]

theorem be16_inj {x y : Half} (h : be16 x = be16 y) : x = y := by
  injection h with high rest
  injection rest with low
  rw [← half_be16 x, ← half_be16 y, high, low]

/-! ## A frame on the control link (R153, R183, R184) -/

/-- What the receiver makes of a whole frame: its text, its CRC-16 and what comes behind. -/
theorem receiveFrame_whole {l1 l0 seq kind : Byte} {body : List Byte} (c1 c0 : Byte) (more : List Byte)
    (size : body.length + 2 = nat16 l1 l0) (most : nat16 l1 l0 ≤ 1026) :
    receiveFrame (l1 :: l0 :: (seq :: kind :: body ++ c1 :: c0 :: more)) =
      if crc16 (l1 :: l0 :: seq :: kind :: body) = half c1 c0 then .good seq kind body more else .crcError := by
  have text : (seq :: kind :: body ++ c1 :: c0 :: more).take (nat16 l1 l0) = seq :: kind :: body := by
    rw [← size]
    exact List.take_left' rfl
  have tail : (seq :: kind :: body ++ c1 :: c0 :: more).drop (nat16 l1 l0) = c1 :: c0 :: more := by
    rw [← size]
    exact List.drop_left' rfl
  have crc : (c1 :: c0 :: more).take 2 = be16 (crc16 (l1 :: l0 :: seq :: kind :: body)) ↔
      crc16 (l1 :: l0 :: seq :: kind :: body) = half c1 c0 := by
    have two : (c1 :: c0 :: more).take 2 = be16 (half c1 c0) := (be16_half c1 c0).symm
    rw [two]
    exact ⟨fun same => (be16_inj same).symm, fun same => by rw [same]⟩
  unfold receiveFrame
  dsimp only
  rw [if_neg (by omega), if_neg (by simp; omega), text, tail]
  exact if_congr crc rfl rfl

/-- A frame's own bytes are received as that frame (R183, R184). -/
theorem receiveFrame_frame (f : Frame) (more : List Byte) (fits : f.body.length ≤ 1024) :
    receiveFrame (coveredBytes f.seq f.kind f.body ++ be16 (crc16 (coveredBytes f.seq f.kind f.body)) ++ more) =
      .good f.seq f.kind f.body more := by
  have size := nat16_be16Nat (k := f.body.length + 2) (by omega)
  have whole := receiveFrame_whole (seq := f.seq) (kind := f.kind) ((crc16 (coveredBytes f.seq f.kind f.body)).extractLsb' 8 8)
    ((crc16 (coveredBytes f.seq f.kind f.body)).extractLsb' 0 8) more size.symm (by rw [size]; omega)
  rw [half_be16] at whole
  refine Eq.trans ?_ (whole.trans (if_pos rfl))
  simp [coveredBytes, be16Nat, be16]

/-! ## The commands of a stream (R153) -/

theorem receiveFrame_rest {bytes body rest : List Byte} {seq kind : Byte} (good : receiveFrame bytes = .good seq kind body rest) :
    rest.length ≤ bytes.length := by
  match bytes with
  | [] | [_] => cases good
  | l1 :: l0 :: more =>
    unfold receiveFrame at good
    dsimp only at good
    split at good
    · cases good
    · split at good
      · cases good
      · split at good
        · split at good
          · cases good
            simp only [List.length_drop, List.length_cons]
            omega
          · cases good
        · cases good

/-- More fuel than there are bytes changes nothing. -/
theorem controlCommandsIn_of_le {k : Nat} {bytes : List Byte} (enough : bytes.length ≤ k) :
    controlCommandsIn k bytes = controlCommands bytes := by
  have steps (k : Nat) : ∀ (j : Nat) (bytes : List Byte), bytes.length ≤ k → bytes.length ≤ j →
      controlCommandsIn k bytes = controlCommandsIn j bytes := by
    induction k with
    | zero =>
      intro j bytes short _
      obtain rfl := List.length_eq_zero_iff.mp (Nat.le_zero.mp short)
      cases j <;> rfl
    | succ k ih =>
      intro j bytes short short'
      cases bytes with
      | nil => cases j <;> rfl
      | cons b rest =>
        obtain ⟨j, rfl⟩ : ∃ i, j = i + 1 := ⟨j - 1, by simp at short'; omega⟩
        have restShort : rest.length ≤ k := Nat.le_of_succ_le_succ short
        have restShort' : rest.length ≤ j := Nat.le_of_succ_le_succ short'
        have again := ih j rest restShort restShort'
        unfold controlCommandsIn
        rw [again]
        refine if_congr Iff.rfl ?_ rfl
        cases received : receiveFrame rest with
        | partway | lengthError | crcError => rfl
        | good seq kind body after =>
          have fewer := receiveFrame_rest received
          exact congrArg _ (ih j after (fewer.trans restShort) (fewer.trans restShort'))
  exact steps k bytes.length bytes enough le_rfl

theorem controlCommands_noise {b : Byte} (other : b ≠ 0xB7) (rest : List Byte) :
    controlCommands (b :: rest) = controlCommands rest := if_neg other

theorem controlCommands_good {bytes body rest : List Byte} {seq kind : Byte}
    (received : receiveFrame bytes = .good seq kind body rest) :
    controlCommands (0xB7 :: bytes) = .controlFrameReceived seq kind body :: controlCommands rest := by
  have start : controlCommands (0xB7 :: bytes) = controlCommandsIn (bytes.length + 1) (0xB7 :: bytes) := rfl
  have sof : (0xB7 : Byte) = controlSof := rfl
  rw [start, controlCommandsIn, if_pos sof, received]
  exact congrArg _ (controlCommandsIn_of_le (receiveFrame_rest received))

theorem controlCommands_behind_noise {noise : List Byte} (none : (0xB7 : Byte) ∉ noise) (rest : List Byte) :
    controlCommands (noise ++ rest) = controlCommands rest := by
  induction noise with
  | nil => rfl
  | cons b noise ih =>
    rw [List.mem_cons, not_or] at none
    exact (controlCommands_noise (Ne.symm none.1) _).trans (ih none.2)

/-- A frame behind noise is received, and hunting goes on behind it (R153, R183, R184). -/
theorem controlCommands_frame {noise : List Byte} (none : (0xB7 : Byte) ∉ noise) (f : Frame) (more : List Byte)
    (fits : f.body.length ≤ 1024) : controlCommands (noise ++ f.bytes ++ more) =
      .controlFrameReceived f.seq f.kind f.body :: controlCommands more := by
  rw [List.append_assoc, controlCommands_behind_noise none]
  exact controlCommands_good (receiveFrame_frame f more fits)

/-! ## The verdict on a control link character (R153) -/

section
variable {chars : List LineChar} {sof : LineChar} {l1 l0 : Byte} {text : List Byte}

theorem controlVerdict_noStop (missing : ∃ c ∈ chars, c.stop = false) :
    controlVerdict (sof :: chars) = some (.linkError .framing) := by
  have any : (chars.any fun c => !c.stop) = true := by simpa [List.any_eq_true] using missing
  exact if_pos any

/-- With every stop bit there, the bytes decide. -/
theorem controlVerdict_stopped (stopped : ∀ c ∈ chars, c.stop = true) :
    controlVerdict (sof :: chars) = match receiveFrame (chars.map LineChar.byte) with
      | .partway => none
      | .lengthError => some (.linkError .length)
      | .crcError => some (.linkError .crc)
      | .good seq kind body _ => some (goodControlFrame seq kind body) := by
  have any : ¬(chars.any fun c => !c.stop) = true := by simpa [List.any_eq_true] using stopped
  exact if_neg any

theorem receiveFrame_short {bytes : List Byte} (short : bytes.length < 2) : receiveFrame bytes = .partway := by
  match bytes, short with
  | [], _ | [_], _ => rfl

theorem receiveFrame_lengthError (outside : nat16 l1 l0 < 2 ∨ 1026 < nat16 l1 l0) :
    receiveFrame (l1 :: l0 :: text) = .lengthError := if_pos outside

theorem receiveFrame_partway (least : 2 ≤ nat16 l1 l0) (most : nat16 l1 l0 ≤ 1026) (short : text.length < nat16 l1 l0 + 2) :
    receiveFrame (l1 :: l0 :: text) = .partway := (if_neg (by omega)).trans (if_pos short)

end

/-! ## The verdict on a lane character (R27, R49, R185) -/

section
variable {n : LaneId} {receiver : LaneReceiver} {chars : List LineChar} {sof : LineChar} {l1 l0 : Byte} {text : List Byte}
  {decided : Option Nat}

theorem laneVerdictOn_noStop (missing : ∃ c ∈ chars, c.stop = false) :
    laneVerdictOn n receiver (sof :: chars) = some (.laneBadFrame n) := by
  have any : (chars.any fun c => !c.stop) = true := by simpa [List.any_eq_true] using missing
  exact if_pos any

theorem laneVerdictOn_stopped (stopped : ∀ c ∈ chars, c.stop = true) :
    laneVerdictOn n receiver (sof :: chars) = laneVerdict n receiver.decided (chars.map LineChar.byte) := by
  have any : ¬(chars.any fun c => !c.stop) = true := by simpa [List.any_eq_true] using stopped
  exact if_neg any

theorem laneVerdict_short {bytes : List Byte} (short : bytes.length < 2) : laneVerdict n decided bytes = none := by
  match bytes, short with
  | [], _ | [_], _ => rfl

theorem laneVerdict_lengthError (outside : nat16 l1 l0 < 2 ∨ 260 < nat16 l1 l0) :
    laneVerdict n decided (l1 :: l0 :: text) = some (.laneBadFrame n) := if_pos outside

theorem laneVerdict_unfinished (least : 2 ≤ nat16 l1 l0) (most : nat16 l1 l0 ≤ 260) (short : text.length < nat16 l1 l0 + 2) :
    laneVerdict n decided (l1 :: l0 :: text) =
      if decided = none ∧ 13 ≤ nat16 l1 l0 then recordHeaderCommand n (l1 :: l0 :: text) else none :=
  (if_neg (by omega)).trans (if_pos short)

/-- A header decision falls due at the header check byte of a RECORD frame alone (R49). -/
theorem recordHeaderCommand_none (other : ¬(text.length = 13 ∧ text.getD 1 0 = 0x12)) :
    recordHeaderCommand n (l1 :: l0 :: text) = none := by
  unfold recordHeaderCommand
  split
  next seqByte kind h1 h0 k s1 s0 t3 t2 t1 t0 len check same =>
    injection same with _ same
    injection same with _ same
    subst same
    exact if_neg fun isRecord => other ⟨rfl, isRecord⟩
  next => rfl

/-- The verdict on a whole frame (R27, R28, R60, R61). -/
theorem laneVerdict_whole {seq kind c1 c0 : Byte} {body : List Byte} (size : body.length + 2 = nat16 l1 l0)
    (most : nat16 l1 l0 ≤ 260) : laneVerdict n decided (l1 :: l0 :: (seq :: kind :: body ++ [c1, c0])) =
      let covered := l1 :: l0 :: seq :: kind :: body
      if kind = 0x12 then some (.recordEnd n (covered.drop (decided.getD 0)) (half c1 c0))
      else if crc16 covered = half c1 c0 then some (goodLaneFrame n kind body)
      else some (.laneBadFrame n) := by
  have start : (seq :: kind :: body ++ [c1, c0]).take (nat16 l1 l0) = seq :: kind :: body := by
    rw [← size]
    exact List.take_left' rfl
  have tail : (seq :: kind :: body ++ [c1, c0]).drop (nat16 l1 l0) = [c1, c0] := by
    rw [← size]
    exact List.drop_left' rfl
  unfold laneVerdict
  dsimp only
  rw [if_neg (by omega), if_neg (by simp; omega), start, tail]
  rfl

/-- A good frame is taken as a frame of its kind and body (R28). -/
theorem exec_goodLaneFrame (n : LaneId) (kind : Byte) (body : List Byte) (s : State) :
    exec (goodLaneFrame n kind body) s = exec (.laneProtocolError n kind body) s := by
  unfold goodLaneFrame
  split
  next isEcho =>
    subst isEcho
    split
    next index p0 p1 p2 p3 p4 p5 p6 p7 n1 n0 =>
      change s.event (State.laneGoodFrame n LaneKind.echo (index :: [p0, p1, p2, p3, p4, p5, p6, p7] ++ be16 (half n1 n0))) = _
      rw [be16_half]
      rfl
    next => rfl
  next =>
    split
    next isKeepalive =>
      subst isKeepalive
      split
      next n1 n0 =>
        change s.event (State.laneGoodFrame n LaneKind.keepalive (be16 (half n1 n0))) = _
        rw [be16_half]
        rfl
      next => rfl
    next =>
      split
      next isClose =>
        obtain ⟨rfl, rfl⟩ := isClose
        rfl
      next =>
        split
        next isCloseAck =>
          obtain ⟨rfl, rfl⟩ := isCloseAck
          rfl
        next => rfl

end

end Sys2Proof.Machine
end

section
/-! The receivers, character by character (R27, R49, R153, R178, R179). -/
namespace Sys2Proof.Machine

/-- The frame a receiver holds behind its next character: hunting, a start-of-frame character alone begins one. -/
def frameBehind (sof : Byte) (before : List LineChar) (c : LineChar) : List LineChar :=
  if before = [] then (if c.stop = true ∧ c.byte = sof then [c] else []) else before ++ [c]

section
variable {sof : Byte} {before : List LineChar} {c : LineChar}

theorem gather_frameBehind (sof : Byte) (before again : List LineChar) (c : LineChar) :
    (⟨before, again⟩ : Reception).gather sof c = ⟨frameBehind sof before c, again⟩ := Reception.gather_eq sof c _

theorem frameBehind_hunting (sof : Byte) (c : LineChar) : frameBehind sof [] c = [] ∨ frameBehind sof [] c = [c] := by
  unfold frameBehind
  rw [if_pos rfl]
  split
  · exact .inr rfl
  · exact .inl rfl

theorem frameBehind_cons (sof : Byte) (start : LineChar) (rest : List LineChar) (c : LineChar) :
    frameBehind sof (start :: rest) c = start :: (rest ++ [c]) := if_neg (List.cons_ne_nil _ _)

theorem drop_frameBehind_hunting (sof : Byte) (c : LineChar) : (frameBehind sof [] c).drop 1 = [] := by
  obtain empty | single := frameBehind_hunting sof c
  · rw [empty]; rfl
  · rw [single]; rfl

end

/-! ## What a receiver makes of its next character -/

/-- Before a frame no character gives a command. -/
theorem controlVerdict_hunting (c : LineChar) : controlVerdict (frameBehind 0xB7 [] c) = none := by
  obtain empty | single := frameBehind_hunting 0xB7 c
  · rw [empty]; rfl
  · rw [single, controlVerdict_stopped fun _ mem => absurd mem List.not_mem_nil]
    rfl

theorem laneVerdictOn_hunting (n : LaneId) (receiver : LaneReceiver) (c : LineChar) :
    laneVerdictOn n receiver (frameBehind 0x9E [] c) = none := by
  obtain empty | single := frameBehind_hunting 0x9E c
  · rw [empty]; rfl
  · rw [single, laneVerdictOn_stopped fun _ mem => absurd mem List.not_mem_nil]
    rfl

section
variable {start c : LineChar} {rest : List LineChar}

theorem stopped_behind (stops : ∀ x ∈ start :: rest, x.stop = true) (stop : c.stop = true) :
    ∀ x ∈ rest ++ [c], x.stop = true := by
  intro x mem
  obtain earlier | last := List.mem_append.mp mem
  · exact stops x (List.mem_cons_of_mem _ earlier)
  · rwa [List.mem_singleton.mp last]

theorem missing_behind (stop : c.stop = false) : ∃ x ∈ rest ++ [c], x.stop = false :=
  ⟨c, List.mem_append_right _ (List.mem_singleton_self c), stop⟩

end

/-- What the control link receiver makes of its next character (R153). -/
theorem controlVerdict_next (before : List LineChar) (c : LineChar) (stops : ∀ x ∈ before, x.stop = true) :
    let frame := frameBehind 0xB7 before c
    let bytes := (frame.drop 1).map LineChar.byte
    let verdict := controlVerdict frame
    (before = [] → verdict = none) ∧
    (before ≠ [] → c.stop = false → verdict = some (.linkError .framing)) ∧
    (before ≠ [] → c.stop = true → bytes.length < 2 → verdict = none) ∧
    (∀ l1 l0 text, c.stop = true → bytes = l1 :: l0 :: text →
      (nat16 l1 l0 < 2 ∨ 1026 < nat16 l1 l0 → verdict = some (.linkError .length)) ∧
      (2 ≤ nat16 l1 l0 → nat16 l1 l0 ≤ 1026 → text.length < nat16 l1 l0 + 2 → verdict = none) ∧
      (∀ seq kind body c1 c0, text = seq :: kind :: body ++ [c1, c0] → body.length + 2 = nat16 l1 l0 → nat16 l1 l0 ≤ 1026 →
        verdict = some (
          if crc16 (l1 :: l0 :: seq :: kind :: body) ≠ c1 ++ c0 then .linkError .crc
          else if kind = 0x01 then .sync seq body
          else .controlFrameReceived seq kind body))) := by
  intro frame bytes verdict
  cases before with
  | nil =>
    refine ⟨fun _ => controlVerdict_hunting c, fun some => absurd rfl some, fun some => absurd rfl some,
      fun l1 l0 text _ same => ?_⟩
    have none : bytes = [] := congrArg (List.map LineChar.byte) (drop_frameBehind_hunting 0xB7 c)
    exact absurd (none.symm.trans same) (List.cons_ne_nil _ _).symm
  | cons start rest =>
    have frame_eq : frame = start :: (rest ++ [c]) := frameBehind_cons _ _ _ _
    have bytes_eq : bytes = (rest ++ [c]).map LineChar.byte := congrArg (fun f => (f.drop 1).map LineChar.byte) frame_eq
    have decides (stop : c.stop = true) : verdict = match receiveFrame bytes with
        | .partway => none
        | .lengthError => some (.linkError .length)
        | .crcError => some (.linkError .crc)
        | .good seq kind body _ => some (goodControlFrame seq kind body) := by
      rw [bytes_eq]
      exact (congrArg controlVerdict frame_eq).trans (controlVerdict_stopped (stopped_behind stops stop))
    refine ⟨fun none => absurd none (List.cons_ne_nil _ _), fun _ noStop => ?_, fun _ stop short => ?_,
      fun l1 l0 text stop same => ⟨fun outside => ?_, fun least most short => ?_, ?_⟩⟩
    · exact (congrArg controlVerdict frame_eq).trans (controlVerdict_noStop (missing_behind noStop))
    · rw [decides stop, receiveFrame_short short]
    · rw [decides stop, same, receiveFrame_lengthError outside]
    · rw [decides stop, same, receiveFrame_partway least most short]
    · intro seq kind body c1 c0 whole size most
      rw [decides stop, same, whole, receiveFrame_whole c1 c0 [] size most]
      by_cases crc : crc16 (l1 :: l0 :: seq :: kind :: body) = half c1 c0
      · rw [if_pos crc]
        exact congrArg some (if_neg (not_not.mpr crc)).symm
      · rw [if_neg crc]
        exact congrArg some (if_pos crc).symm

/-- What a lane receiver makes of its next character (R27, R49, R183 to R185). -/
theorem laneVerdict_next (n : LaneId) (receiver : LaneReceiver) (before : List LineChar) (c : LineChar)
    (stops : ∀ x ∈ before, x.stop = true) :
    let frame := frameBehind 0x9E before c
    let bytes := (frame.drop 1).map LineChar.byte
    let verdict := laneVerdictOn n receiver frame
    (before = [] → verdict = none) ∧
    (before ≠ [] → c.stop = false → verdict = some (.laneBadFrame n)) ∧
    (before ≠ [] → c.stop = true → bytes.length < 2 → verdict = none) ∧
    (∀ l1 l0 text, c.stop = true → bytes = l1 :: l0 :: text →
      (nat16 l1 l0 < 2 ∨ 260 < nat16 l1 l0 → verdict = some (.laneBadFrame n)) ∧
      (2 ≤ nat16 l1 l0 → nat16 l1 l0 ≤ 260 → text.length < nat16 l1 l0 + 2 →
        ¬(receiver = .hunting ∧ 13 ≤ nat16 l1 l0 ∧ text.length = 13 ∧ text.getD 1 0 = 0x12) → verdict = none) ∧
      (∀ seq h1 h0 k s1 s0 t3 t2 t1 t0 size check, receiver = .hunting → 13 ≤ nat16 l1 l0 → nat16 l1 l0 ≤ 260 →
        text = [seq, 0x12, h1, h0, k, s1, s0, t3, t2, t1, t0, size, check] →
        verdict = some (.recordHeader n (l1 ++ l0) seq ⟨h1 ++ h0, k, s1 ++ s0, (t3 ++ t2) ++ (t1 ++ t0), size⟩ check)) ∧
      (∀ seq kind body c1 c0, text = seq :: kind :: body ++ [c1, c0] → body.length + 2 = nat16 l1 l0 → nat16 l1 l0 ≤ 260 →
        let covered := l1 :: l0 :: seq :: kind :: body
        (kind = 0x12 → verdict = some (.recordEnd n
          (match receiver with | .hunting => covered | .record decided _ _ => covered.drop decided.length) (c1 ++ c0))) ∧
        (kind ≠ 0x12 → crc16 covered ≠ c1 ++ c0 → verdict = some (.laneBadFrame n)) ∧
        (kind ≠ 0x12 → crc16 covered = c1 ++ c0 → verdict = some (goodLaneFrame n kind body)))) := by
  intro frame bytes verdict
  cases before with
  | nil =>
    refine ⟨fun _ => laneVerdictOn_hunting n receiver c, fun some => absurd rfl some, fun some => absurd rfl some,
      fun l1 l0 text _ same => ?_⟩
    have none : bytes = [] := congrArg (List.map LineChar.byte) (drop_frameBehind_hunting 0x9E c)
    exact absurd (none.symm.trans same) (List.cons_ne_nil _ _).symm
  | cons start rest =>
    have frame_eq : frame = start :: (rest ++ [c]) := frameBehind_cons _ _ _ _
    have bytes_eq : bytes = (rest ++ [c]).map LineChar.byte := congrArg (fun f => (f.drop 1).map LineChar.byte) frame_eq
    have decides (stop : c.stop = true) : verdict = laneVerdict n receiver.decided bytes := by
      rw [bytes_eq]
      exact (congrArg (laneVerdictOn n receiver) frame_eq).trans (laneVerdictOn_stopped (stopped_behind stops stop))
    refine ⟨fun none => absurd none (List.cons_ne_nil _ _), fun _ noStop => ?_, fun _ stop short => ?_,
      fun l1 l0 text stop same => ⟨fun outside => ?_, fun least most short other => ?_, ?_, ?_⟩⟩
    · exact (congrArg (laneVerdictOn n receiver) frame_eq).trans (laneVerdictOn_noStop (missing_behind noStop))
    · rw [decides stop, laneVerdict_short short]
    · rw [decides stop, same, laneVerdict_lengthError outside]
    · rw [decides stop, same, laneVerdict_unfinished least most short]
      split
      case isTrue headed =>
        obtain ⟨undecided, long⟩ := headed
        have hunting : receiver = .hunting := by
          cases receiver with
          | hunting => rfl
          | record => cases undecided
        exact recordHeaderCommand_none fun header => other ⟨hunting, long, header⟩
      case isFalse => rfl
    · rintro seq h1 h0 k s1 s0 t3 t2 t1 t0 size check rfl long most rfl
      rw [decides stop, same, laneVerdict_unfinished (by omega) most (by change 13 < _; omega), if_pos ⟨rfl, long⟩]
      rfl
    · intro seq kind body c1 c0 whole size most covered
      rw [decides stop, same, whole, laneVerdict_whole size most]
      dsimp only
      refine ⟨fun isRecord => ?_, fun other crc => ?_, fun other crc => ?_⟩
      · rw [if_pos isRecord]
        cases receiver <;> rfl
      · exact (if_neg other).trans (if_neg crc)
      · exact (if_neg other).trans (if_pos crc)

/-! ## Whose character comes next (logs 3, 28) -/

section
variable {s : State} {c : LineChar} {again : List LineChar} {line : List Arrival}

theorem State.controlReceive_eq (next : NextCharacter (s.clock + 1000 * s.link.gapTimeout) s.link.reception s.lines.control c again line) :
    s.controlReceive = some ({ s with
      lines := { s.lines with control := line }
      link := { s.link with reception := ⟨frameBehind 0xB7 s.link.reception.frame c, again⟩ } },
      controlVerdict (frameBehind 0xB7 s.link.reception.frame c)) := by
  have taken := (Reception.next_eq_some (k := ⟨s.link.reception.frame, again⟩)).mpr ⟨next, rfl⟩
  have gap : s.controlGapEnd = s.clock + 1000 * s.link.gapTimeout := rfl
  unfold State.controlReceive
  rw [gap, taken, Option.map_some]
  dsimp only
  rw [gather_frameBehind]
  rfl

theorem State.laneReceive_eq {n : LaneId}
    (next : NextCharacter (s.clock + 1000) (s.lane n).reception s.lines.lanes[n] c again line) :
    s.laneReceive n = some ({ s with
      lines := { s.lines with lanes := s.lines.lanes.set n line }
      lanes := s.lanes.set n
        ({ s.lane n with reception := ⟨frameBehind 0x9E (s.lane n).reception.frame c, again⟩ } : Lane).payloadStored },
      laneVerdictOn n (s.lane n).receiver (frameBehind 0x9E (s.lane n).reception.frame c)) := by
  have taken := (Reception.next_eq_some (k := ⟨(s.lane n).reception.frame, again⟩)).mpr ⟨next, rfl⟩
  have gap : s.laneGapEnd = s.clock + 1000 := rfl
  unfold State.laneReceive
  rw [gap, taken, Option.map_some]
  dsimp only
  rw [gather_frameBehind, Lane.storePayload_eq]
  rfl

theorem State.controlReceive_none : s.controlReceive = none ↔ NoCharacter s.link.reception s.lines.control :=
  Option.map_eq_none_iff.trans Reception.next_eq_none

theorem State.laneReceive_none {n : LaneId} : s.laneReceive n = none ↔ NoCharacter (s.lane n).reception s.lines.lanes[n] :=
  Option.map_eq_none_iff.trans Reception.next_eq_none

theorem State.receive_running (running : s.running = true) : s.receive =
    (s.controlReceive <|> s.laneReceive 0 <|> s.laneReceive 1 <|> s.laneReceive 2 <|> s.laneReceive 3) := if_pos running

/-- The control link's character comes first (log 3). -/
theorem State.receive_of_control {out : State × Option Instr} (running : s.running = true)
    (control : s.controlReceive = some out) : s.receive = some out := by
  rw [State.receive_running running, control]
  rfl

/-- Then the lanes' characters come in lane order (log 3). -/
theorem State.receive_of_lane {out : State × Option Instr} {n : LaneId} (running : s.running = true)
    (control : s.controlReceive = none) (before : ∀ m < n, s.laneReceive m = none) (lane : s.laneReceive n = some out) :
    s.receive = some out := by
  rw [State.receive_running running, control]
  match n with
  | 0 => rw [lane]; rfl
  | 1 => rw [before 0 (by decide), lane]; rfl
  | 2 => rw [before 0 (by decide), before 1 (by decide), lane]; rfl
  | 3 => rw [before 0 (by decide), before 1 (by decide), before 2 (by decide), lane]; rfl

theorem State.receive_none (s : State) : s.running = false ∨ (NoCharacter s.link.reception s.lines.control ∧
    ∀ n : LaneId, NoCharacter (s.lane n).reception s.lines.lanes[n]) ↔ s.receive = none := by
  simp only [← State.controlReceive_none, ← State.laneReceive_none]
  cases running : s.running with
  | false =>
    refine iff_of_true (.inl rfl) (if_neg ?_)
    rw [running]
    exact Bool.false_ne_true
  | true =>
    rw [State.receive_running running]
    simp [Fin.forall_fin_succ]

end

/-! ## A line as time passes (R178) -/

theorem elapseLine_cons (a : Arrival) (rest : List Arrival) : elapseLine (a :: rest) =
    if a.wait = 0 then elapseLine rest else { a with wait := a.wait - 1 } :: rest := by
  unfold elapseLine
  by_cases due : a.wait = 0
  · have skipped : (a :: rest).dropWhile (fun a => decide (a.wait = 0)) = rest.dropWhile fun a => decide (a.wait = 0) :=
      List.dropWhile_cons_of_pos (by simpa using due)
    rw [if_pos due, skipped]
  · have stays : (a :: rest).dropWhile (fun a => decide (a.wait = 0)) = a :: rest :=
      List.dropWhile_cons_of_neg (by simpa using due)
    rw [if_neg due, stays]

/-- Settles O7: the verdict on each character, by the frame behind it, and the order in which characters come. -/
theorem framedBytesReachTheReceiver : Obligations.FramedBytesReachTheReceiver := by
  refine ⟨fun noise f more none fits => controlCommands_frame none f more fits, ?control, ?lane, State.receive_none,
    fun x => ⟨rfl, fun n => mapVec_get elapseLine x.lanes n⟩, rfl, elapseLine_cons⟩
  case control =>
    intro s c again line running next stops before frame bytes gives
    have received : gives (controlVerdict frame) := State.receive_of_control running (State.controlReceive_eq next)
    have taken {command : Option Instr} (verdict : controlVerdict frame = command) : gives command := verdict ▸ received
    obtain ⟨hunting, noStop, short, headed⟩ := controlVerdict_next before c stops
    refine ⟨fun none => taken (hunting none), fun some stop => taken (noStop some stop),
      fun some stop few => taken (short some stop few), fun l1 l0 text stop same => ?_⟩
    obtain ⟨outside, partway, whole⟩ := headed l1 l0 text stop same
    exact ⟨fun length => taken (outside length), fun least most few => taken (partway least most few),
      fun seq kind body c1 c0 text size most => taken (whole seq kind body c1 c0 text size most)⟩
  case lane =>
    intro s n c again line running noControl noLane next stops l before frame bytes gives
    have received : gives (laneVerdictOn n l.receiver frame) :=
      State.receive_of_lane running (State.controlReceive_none.mpr noControl)
        (fun m earlier => State.laneReceive_none.mpr (noLane m earlier)) (State.laneReceive_eq next)
    have taken {command : Option Instr} (verdict : laneVerdictOn n l.receiver frame = command) : gives command :=
      verdict ▸ received
    obtain ⟨hunting, noStop, short, headed⟩ := laneVerdict_next n l.receiver before c stops
    refine ⟨fun none => taken (hunting none), fun some stop => taken (noStop some stop),
      fun some stop few => taken (short some stop few), fun l1 l0 text stop same => ?_⟩
    obtain ⟨outside, partway, header, whole⟩ := headed l1 l0 text stop same
    refine ⟨fun length => taken (outside length), fun least most few other => taken (partway least most few other),
      fun seq h1 h0 k s1 s0 t3 t2 t1 t0 size check hunts long most text =>
        taken (header seq h1 h0 k s1 s0 t3 t2 t1 t0 size check hunts long most text),
      fun seq kind body c1 c0 text size most => ?_⟩
    obtain ⟨record, badCrc, good⟩ := whole seq kind body c1 c0 text size most
    exact ⟨fun isRecord => taken (record isRecord), fun other crc => taken (badCrc other crc),
      fun other crc => ⟨_, taken (good other crc), exec_goodLaneFrame n kind body⟩⟩

end Sys2Proof.Machine
end
